-- ==== Sys2Proof/Word.lean ====
section
/-! DEFINITION. The two word types of GQE: the byte of its byte strings (spec 00 R13) and the 32-bit word of its
registers, its bus and its command words (spec 10 R32, spec 30 R110). -/

namespace Sys2Proof

/-- One byte of a byte string, of DBUF or of ABUF (spec 00 R13). -/
abbrev Byte := BitVec 8

/-- One 32-bit word: a register as the host sees it, a bus datum, a command word (spec 10 R32, spec 30 R110). -/
abbrev Word := BitVec 32

end Sys2Proof
end

