-- ==== Sys2Proof/Syntax.lean ====
section
/-! DEFINITION. The commands of GQE, one constructor per row of spec/opcode_table.json (spec 30 R114). -/

namespace Sys2Proof

/-- A key slot named by the KS field (spec 30 R112). -/
inductive SlotSel where
  | slot0
  | slot1
  deriving DecidableEq, Repr

/-- A command (spec 30 R114). Only CCM_NEW and X25519_BASE take an operand from the command word (spec 30 R112,
R113, R117). -/
inductive Instr where
  /-- NOP (spec 47 R340). -/
  | nop
  /-- CCM_NEW with its KS and DK fields (spec 41 R172). -/
  | ccmNew (ks : SlotSel) (dk : Bool)
  /-- CCM_SEAL (spec 41 R186). -/
  | ccmSeal
  /-- CCM_OPEN (spec 41 R187). -/
  | ccmOpen
  /-- CCM_TAG (spec 41 R188). -/
  | ccmTag
  /-- CTR_XOR (spec 41 R189). -/
  | ctrXor
  /-- NONCE_BUILD (spec 42 R221). -/
  | nonceBuild
  /-- X25519_BASE with its KS field (spec 43 R240). -/
  | x25519Base (ks : SlotSel)
  /-- X25519 (spec 43 R241). -/
  | x25519
  /-- DERIVE_KEY (spec 45 R293). -/
  | deriveKey
  /-- SHA256 (spec 44 R267). -/
  | sha256
  /-- DISPATCH (spec 46 R312). -/
  | dispatch
  /-- ZEROIZE (spec 47 R341). -/
  | zeroize
  deriving DecidableEq, Repr

end Sys2Proof
end

