-- ==== Sys2Proof/WellFormed.lean ====
section
/-! DEFINITION. Which terms of Instr are commands: the one constraint between fields, that CCM_NEW with DK = 1 has
KS = 0 (spec 30 R113, R116). -/

namespace Sys2Proof

/-- Well-formedness of a command term: the term has a legal command word (spec 30 R113, R116). -/
def Instr.wf : Instr → Bool
  | .nop => true
  | .ccmNew ks dk => !(dk && ks == .slot1)
  | .ccmSeal => true
  | .ccmOpen => true
  | .ccmTag => true
  | .ctrXor => true
  | .nonceBuild => true
  | .x25519Base _ => true
  | .x25519 => true
  | .deriveKey => true
  | .sha256 => true
  | .dispatch => true
  | .zeroize => true

end Sys2Proof
end

