-- ==== Sys2Proof/Decode.lean ====
section
/-! DEFINITION. The command-word decoder, total and rejecting by name, and the encoder (spec 30 R110 to R116). -/

namespace Sys2Proof

/-- Why a word is illegal (spec 30 R116). The names are the model's: every illegal word completes alike, with
ILLEGAL_COMMAND (spec 47 R342), so the reason is not observable (log entry 13). -/
inductive DecodeError where
  /-- OP is not in the opcode map. -/
  | unlistedOpcode
  /-- RSV is not zero. -/
  | reservedBitsSet
  /-- KS = 1 for an opcode whose KS column is 0. -/
  | slotNotTaken
  /-- DK = 1 for an opcode whose DK column is 0. -/
  | derivedKeyNotTaken
  /-- CCM_NEW with DK = 1 and KS = 1, the word 0x0000_0301. -/
  | slotWithDerivedKey
  deriving DecidableEq, Repr

/-- OP, bits [7:0] (spec 30 R111). -/
def opField (w : Word) : BitVec 8 := w.extractLsb' 0 8

/-- KS, bit [8] (spec 30 R111). -/
def ksField (w : Word) : Bool := w.getLsbD 8

/-- DK, bit [9] (spec 30 R111). -/
def dkField (w : Word) : Bool := w.getLsbD 9

/-- RSV, bits [31:10] (spec 30 R111). -/
def rsvField (w : Word) : BitVec 22 := w.extractLsb' 10 22

/-- KS zero-extended to a slot number (spec 30 R112). -/
def slotOf (ks : Bool) : SlotSel := if ks then .slot1 else .slot0

/-- The KS bit that names a slot (spec 30 R112). -/
def SlotSel.bit : SlotSel → Bool
  | .slot0 => false
  | .slot1 => true

/-- An opcode whose KS and DK columns are 0 (spec 30 R114). -/
def decodePlain (i : Instr) (ks dk : Bool) : Except DecodeError Instr :=
  if ks then .error .slotNotTaken
  else if dk then .error .derivedKeyNotTaken
  else .ok i

/-- CCM_NEW, which takes KS and DK but not both (spec 30 R113). -/
def decodeCcmNew (ks dk : Bool) : Except DecodeError Instr :=
  if ks && dk then .error .slotWithDerivedKey
  else .ok (.ccmNew (slotOf ks) dk)

/-- X25519_BASE, which takes KS only (spec 30 R112). -/
def decodeX25519Base (ks dk : Bool) : Except DecodeError Instr :=
  if dk then .error .derivedKeyNotTaken
  else .ok (.x25519Base (slotOf ks))

/-- The opcode map of spec 30 R114: the command an OP, a KS and a DK field select. -/
def decodeFields (op : BitVec 8) (ks dk : Bool) : Except DecodeError Instr :=
  match op.toNat with
  | 0x00 => decodePlain .nop ks dk
  | 0x01 => decodeCcmNew ks dk
  | 0x02 => decodePlain .ccmSeal ks dk
  | 0x03 => decodePlain .ccmOpen ks dk
  | 0x04 => decodePlain .ccmTag ks dk
  | 0x05 => decodePlain .ctrXor ks dk
  | 0x08 => decodePlain .nonceBuild ks dk
  | 0x10 => decodeX25519Base ks dk
  | 0x11 => decodePlain .x25519 ks dk
  | 0x12 => decodePlain .deriveKey ks dk
  | 0x18 => decodePlain .sha256 ks dk
  | 0x20 => decodePlain .dispatch ks dk
  | 0x3F => decodePlain .zeroize ks dk
  | _ => .error .unlistedOpcode

/-- Decode a command word: the command it encodes, or why it is illegal (spec 30 R110 to R116). -/
def decode (w : Word) : Except DecodeError Instr :=
  if rsvField w ≠ 0 then .error .reservedBitsSet else decodeFields (opField w) (ksField w) (dkField w)

/-- The OP value of a command (spec 30 R114). -/
def Instr.opcode : Instr → BitVec 8
  | .nop => 0x00
  | .ccmNew _ _ => 0x01
  | .ccmSeal => 0x02
  | .ccmOpen => 0x03
  | .ccmTag => 0x04
  | .ctrXor => 0x05
  | .nonceBuild => 0x08
  | .x25519Base _ => 0x10
  | .x25519 => 0x11
  | .deriveKey => 0x12
  | .sha256 => 0x18
  | .dispatch => 0x20
  | .zeroize => 0x3F

/-- The KS bit of a command's word (spec 30 R112, R114). -/
def Instr.ksBit : Instr → Bool
  | .nop => false
  | .ccmNew ks _ => ks.bit
  | .ccmSeal => false
  | .ccmOpen => false
  | .ccmTag => false
  | .ctrXor => false
  | .nonceBuild => false
  | .x25519Base ks => ks.bit
  | .x25519 => false
  | .deriveKey => false
  | .sha256 => false
  | .dispatch => false
  | .zeroize => false

/-- The DK bit of a command's word (spec 30 R113, R114). -/
def Instr.dkBit : Instr → Bool
  | .nop => false
  | .ccmNew _ dk => dk
  | .ccmSeal => false
  | .ccmOpen => false
  | .ccmTag => false
  | .ctrXor => false
  | .nonceBuild => false
  | .x25519Base _ => false
  | .x25519 => false
  | .deriveKey => false
  | .sha256 => false
  | .dispatch => false
  | .zeroize => false

/-- The command word of a command, most significant field first: RSV, DK, KS, OP (spec 30 R111). -/
def encode (i : Instr) : Word :=
  (0#22 ++ BitVec.ofBool i.dkBit ++ BitVec.ofBool i.ksBit ++ i.opcode : BitVec (22 + 1 + 1 + 8))

/-- What the decoder reads from an instruction whose low nbits bits are w's, every bit above them 0, numbered as
spec/opcode_table.json numbers them; none where it refuses, or where a bit above the one command word is set. -/
def decodeTableWord (nbits w : Nat) : Option Instr :=
  let v := w % 2 ^ nbits
  if v < 2 ^ 32 then (decode (BitVec.ofNat 32 v)).toOption else none

end Sys2Proof
end

