-- ==== Sys2Proof/Machine/Bytes.lean ====
section
/-! DEFINITION. Byte strings and their integer encodings (spec 00 R13), and their packing into registers
(spec 20 R84). -/

namespace Sys2Proof.Machine

open Sys2Proof

/-- LE_n(x), the n-byte little-endian encoding of x (spec 00 R13); x is taken modulo 2^(8n). -/
def leBytes : (n x : Nat) → List Byte
  | 0, _ => []
  | n + 1, x => BitVec.ofNat 8 x :: leBytes n (x / 256)

/-- BE_n(x), the n-byte big-endian encoding of x (spec 00 R13). -/
def beBytes (n x : Nat) : List Byte := (leBytes n x).reverse

/-- fromLE(b), the integer whose little-endian encoding is b (spec 00 R13). -/
def fromLE : List Byte → Nat
  | [] => 0
  | b :: bs => b.toNat + 256 * fromLE bs

/-- fromBE(b), the integer whose big-endian encoding is b (spec 44 R264). -/
def fromBE (b : List Byte) : Nat := fromLE b.reverse

/-- zeros(n), n zero bytes (spec 00 R13). -/
def zeros (n : Nat) : List Byte := List.replicate n 0

/-- pad16(b), b with the fewest zero bytes that make its length a multiple of 16 (spec 00 R13). -/
def pad16 (b : List Byte) : List Byte := b ++ zeros ((16 - b.length % 16) % 16)

/-- a XOR b, over the length of the shorter (spec 00 R13). -/
def xorBytes (a b : List Byte) : List Byte := List.zipWith (· ^^^ ·) a b

/-- The first n blocks of k bytes of b, in order. -/
def takeBlocks (k : Nat) : (n : Nat) → List Byte → List (List Byte)
  | 0, _ => []
  | n + 1, b => b.take k :: takeBlocks k n (b.drop k)

/-- b as blocks of k bytes, in order; b's length is a multiple of k where the spec uses it. -/
def blocksOf (k : Nat) (b : List Byte) : List (List Byte) := takeBlocks k (b.length / k) b

/-- The n-byte string a register group holds: byte i is bits [8i+7 : 8i] (spec 20 R84). -/
def unpack {w : Nat} (n : Nat) (v : BitVec w) : List Byte := leBytes n v.toNat

/-- The register group that holds a byte string, byte i in bits [8i+7 : 8i] (spec 20 R84). -/
def pack (w : Nat) (b : List Byte) : BitVec w := BitVec.ofNat w (fromLE b)

/-- Word k of a register group: bits [32k+31 : 32k], bits above its width 0 (spec 20 R84). -/
def getWord {w : Nat} (v : BitVec w) (k : Nat) : Word := v.extractLsb' (32 * k) 32

/-- A register group with word k replaced; bits above its width are not held (spec 20 R84, spec 10 R51). -/
def setWord {w : Nat} (v : BitVec w) (k : Nat) (d : Word) : BitVec w :=
  (v &&& ~~~((0xFFFF_FFFF#32).setWidth w <<< (32 * k))) ||| (d.setWidth w <<< (32 * k))

end Sys2Proof.Machine
end

