-- ==== Sys2Proof/Config.lean ====
section
/-! DEFINITION. What is fixed for a run and what the spec leaves open: the parameters of spec 00 R7 and spec 92
section 2, and the free values of spec 20 R93 and spec 70 R382, R384. -/

namespace Sys2Proof

/-- The parameters of one implementation, fixed for a run (spec 00 R7, spec 10 R64, spec 92 section 2). A model
takes them as arguments: here they are carried in State and no step changes them (log entry 1). -/
structure Params where
  /-- DBUF_BYTES, the size of the data buffer. -/
  dbufBytes : Nat
  /-- ABUF_BYTES, the size of the associated-data buffer. -/
  abufBytes : Nat
  /-- GQE_BASE, the address of the 4 KiB register window (OPEN; spec 20 R80). -/
  gqeBase : Nat
  /-- GQE_IRQ, the platform interrupt input that irq drives (OPEN; spec 60 R357). -/
  gqeIrq : Nat
  deriving DecidableEq, Repr

/-- The constraints of spec 00 R7 on the buffer sizes and of spec 20 R80 on the base address. -/
abbrev Params.Legal (p : Params) : Prop :=
  16 ≤ p.dbufBytes ∧ p.dbufBytes ≤ 1024 ∧ p.dbufBytes % 16 = 0 ∧
    p.abufBytes ≤ 256 ∧ p.abufBytes % 4 = 0 ∧ p.gqeBase % 4096 = 0

/-- The defaults of spec 00 R7. DESIGN CHOICE: GQE_BASE and GQE_IRQ, which the spec leaves OPEN, are 0 here
(log entry 1; unsafe for a claim that rests on either value). -/
def Params.default : Params :=
  { dbufBytes := 512, abufBytes := 64, gqeBase := 0, gqeIrq := 0 }

/-- The value of the unwritten buffer byte at a window offset, in the given draw: an arbitrary value fixed at reset,
the same on every read until the byte is written (spec 70 R382, R384; log entry 2). No body: a FREE VALUE. -/
opaque Config.unwrittenByte : (draw : Nat) → (offset : Nat) → Byte

/-- The unspecified word that a read of a result or of a buffer returns while the sequencer is busy: a free draw
each time, under no law (spec 20 R93; log entry 3). No body: a FREE VALUE. -/
opaque Config.busyRead : (draw : Nat) → Word

end Sys2Proof
end

