-- ==== Sys2Proof/Machine/State.lean ====
section
/-! DEFINITION. The architectural state of GQE (spec 10), the events its host and platform cause, the reasons a step
can stop, and the state after a power-on reset (spec 10 R65). -/

namespace Sys2Proof.Machine

open Sys2Proof

/-- The sequencer (spec 10 R31): IDLE, or BUSY with the command word being executed. STATUS.BUSY is 1 exactly when
it is BUSY. -/
inductive Seq where
  | idle
  | busy (w : Word)
  deriving DecidableEq, Repr

/-- KEYCTLn.TYPE, what a key slot holds (spec 10 R52). -/
inductive KeyType where
  /-- 0: no key. -/
  | none
  /-- 1: a symmetric AES key. -/
  | sym
  /-- 2: an X25519 private scalar. -/
  | priv
  /-- 3: an X25519 public u-coordinate. -/
  | pub
  deriving DecidableEq, Repr

/-- A key slot: KEYCTLn.TYPE, KEYCTLn.KLEN and the 32 key bytes KEYn, byte i in bits [8i+7 : 8i] (spec 10 R52, R53,
spec 20 R84). -/
structure KeySlot where
  type : KeyType
  klen : BitVec 6
  key : BitVec 256
  deriving DecidableEq, Repr

/-- The result codes of spec 60 R351. The reserved values 11 to 15 are never written, so they have no constructor. -/
inductive ResultCode where
  /-- 0 OK. -/
  | ok
  /-- 1 INVALID_PARAMETERS. -/
  | invalidParameters
  /-- 2 INVALID_INPUT. -/
  | invalidInput
  /-- 3 AUTHENTICATION_FAILED. -/
  | authenticationFailed
  /-- 4 KEY_AGREEMENT_FAILED. -/
  | keyAgreementFailed
  /-- 5 UNKNOWN_PAYLOAD_VARIANT. -/
  | unknownPayloadVariant
  /-- 6 KEY_NOT_FOUND. -/
  | keyNotFound
  /-- 7 INVALID_TRAILER_LENGTH. -/
  | invalidTrailerLength
  /-- 8 DECRYPT_FAILED. -/
  | decryptFailed
  /-- 9 MALFORMED_PLAINTEXT, reserved for the host; GQE never writes it. -/
  | malformedPlaintext
  /-- 10 ILLEGAL_COMMAND. -/
  | illegalCommand
  deriving DecidableEq, Repr

/-- The CCM latch (spec 10 R59): CCM_READY, CKEY, CKLEN, M and NS. -/
structure CcmLatch where
  ready : Bool
  ckey : BitVec 256
  cklen : BitVec 6
  m : BitVec 5
  ns : BitVec 4
  deriving DecidableEq, Repr

/-- The width of a bus access (spec 20 R81). -/
inductive AccessWidth where
  | bits8
  | bits16
  | bits32
  deriving DecidableEq, Repr

/-- What a bus access does; a write carries its byte mask, one bit per byte lane (spec 20 R81). -/
inductive AccessKind where
  | read
  | write (mask : BitVec 4) (data : Word)
  deriving DecidableEq, Repr

/-- One bus access of the host, at an address of the host's address map (spec 20 R80, R81). -/
structure Access where
  addr : Nat
  width : AccessWidth
  kind : AccessKind
  deriving DecidableEq, Repr

/-- What happens next outside the engine, or whose turn it is (spec 10 R30, spec 70 R395; log entry 5). -/
inductive HostEvent where
  /-- The host performs one bus access. -/
  | access (a : Access)
  /-- The host's `wait` loop of spec 30 R118: it reads STATUS until BUSY reads 0. The number says how many polls see
  BUSY = 1 before the completion is scheduled (spec 93 U10). -/
  | wait (polls : Nat)
  /-- The engine's turn: the completion step of a running command; nothing when the sequencer is idle. -/
  | engine
  /-- The platform asserts the power-on reset (spec 70 R380). -/
  | powerOn
  deriving DecidableEq, Repr

/-- What the bus answers to one access (spec 20 R82, R88). -/
inductive Response where
  /-- A read returned this word. -/
  | data (w : Word)
  /-- A write was performed (or ignored by its register's rule). -/
  | written
  /-- The bus error response: nothing was performed and no data returned. -/
  | busError
  deriving DecidableEq, Repr

/-- The host's side of the bus, the model's own: the events to come, in order, and the answers so far, newest first
(log entries 5 and 7). -/
structure HostPort where
  pending : List HostEvent
  responses : List Response
  deriving DecidableEq, Repr

/-- DBUF and ABUF: the written bytes, as (window offset, byte) cells with strictly rising offsets (spec 20 R85, R86).
An unlisted byte has no written value. -/
abbrev Memory := List Host.Cell

/-- The whole state of GQE. Byte strings held in registers are bit vectors with byte i in bits [8i+7 : 8i]
(spec 20 R84). -/
structure State where
  /-- The implementation parameters, fixed for a run (spec 00 R7). -/
  params : Params
  /-- The host's side of the bus (the model's own field). -/
  host : HostPort
  /-- The number of the next free draw (the model's own field). -/
  draws : Nat
  /-- The draw that gives unwritten buffer bytes their values (the model's own field). -/
  bufDraw : Nat
  /-- SEQ (spec 10 R31). -/
  seq : Seq
  /-- CTRL.IRQ_EN (spec 10 R36). -/
  irqEn : Bool
  /-- CMD (spec 10 R37). -/
  cmd : Word
  /-- STATUS.DONE (spec 10 R39). -/
  done : Bool
  /-- STATUS.ERR (spec 10 R40). -/
  err : Bool
  /-- STATUS.WIGN (spec 10 R41). -/
  wign : Bool
  /-- RESULT.CODE (spec 10 R43). -/
  code : ResultCode
  /-- RESULT.CAUSE (spec 10 R43). -/
  cause : ResultCode
  /-- RESULT.OP (spec 10 R43). -/
  resultOp : BitVec 8
  /-- OLEN (spec 10 R44). -/
  olen : BitVec 16
  /-- LEN (spec 10 R45). -/
  len : BitVec 16
  /-- ALEN (spec 10 R46). -/
  alen : BitVec 16
  /-- CCMCFG.TAGSIZE (spec 10 R47). -/
  tagSize : BitVec 5
  /-- CCMCFG.NONCESIZE (spec 10 R47). -/
  nonceSize : BitVec 4
  /-- PKTID (spec 10 R49). -/
  pktid : Word
  /-- SENDER (spec 10 R49). -/
  sender : Word
  /-- XNONCE (spec 10 R49). -/
  xnonce : Word
  /-- ENV.VARIANT (spec 10 R50). -/
  variant : BitVec 2
  /-- ENV.ROUTE (spec 10 R50). -/
  route : Bool
  /-- NONCE, 13 bytes (spec 10 R51). -/
  nonce : BitVec 104
  /-- TAG, 16 bytes (spec 10 R55). -/
  tag : BitVec 128
  /-- Key slot 0 (spec 10 R52, R53). -/
  slot0 : KeySlot
  /-- Key slot 1 (spec 10 R52, R53). -/
  slot1 : KeySlot
  /-- OUT, 32 bytes (spec 10 R56). -/
  out : BitVec 256
  /-- DIGEST, 32 bytes (spec 10 R57). -/
  digest : BitVec 256
  /-- The CCM latch (spec 10 R59). -/
  latch : CcmLatch
  /-- DKEY, 32 bytes (spec 10 R60). -/
  dkey : BitVec 256
  /-- DKEY_VALID (spec 10 R60). -/
  dkeyValid : Bool
  /-- DBUF and ABUF (spec 10 R58). -/
  mem : Memory
  deriving DecidableEq, Repr

/-- The reasons the machine stops. -/
inductive Fault where
  /-- A host access whose address is outside GQE's 4 KiB window (spec 20 R80): it is no access of GQE. Raised by the
  bus alone, never by a command. Safe: nothing is claimed of what another device does with it (log entry 8). -/
  | outsideWindow
  deriving DecidableEq, Repr

/-- The reasons a step has no meaning. -/
inductive Refusal where
  /-- The instruction has no meaning in this model yet. Raised by exec alone, in an arm of its own; no arm raises it
  now. Safe: nothing is claimed of the instruction. -/
  | notModelled (mnemonic : String)
  deriving DecidableEq, Repr

/-- A key slot after reset: TYPE = NONE, KLEN = 0, all bytes zero (spec 10 R65). -/
def KeySlot.reset : KeySlot := { type := .none, klen := 0, key := 0 }

/-- The CCM latch after reset (spec 10 R65). -/
def CcmLatch.reset : CcmLatch := { ready := false, ckey := 0, cklen := 0, m := 0, ns := 0 }

/-- The state after a power-on reset (spec 70 R381): every register at its value of spec 10 R65, and no buffer byte
written, so that each reads as the free value of the given draw (spec 70 R382). The parameters and the host's side
of the bus are not GQE's state and stay. -/
def State.powerOn (p : Params) (h : HostPort) (draw : Nat) : State where
  params := p
  host := h
  draws := draw + 1
  bufDraw := draw
  seq := .idle
  irqEn := false
  cmd := 0
  done := false
  err := false
  wign := false
  code := .ok
  cause := .ok
  resultOp := 0
  olen := 0
  len := 0
  alen := 0
  tagSize := 8
  nonceSize := 13
  pktid := 0
  sender := 0
  xnonce := 0
  variant := 0
  route := false
  nonce := 0
  tag := 0
  slot0 := KeySlot.reset
  slot1 := KeySlot.reset
  out := 0
  digest := 0
  latch := CcmLatch.reset
  dkey := 0
  dkeyValid := false
  mem := []

/-- The machine right after reset, with the default parameters of spec 00 R7 and a host that has issued nothing
(log entries 1, 4 and 12). -/
def State.reset : State := State.powerOn Params.default { pending := [], responses := [] } 0

end Sys2Proof.Machine
end

