-- ==== Sys2Proof/Machine/Flags.lean ====
section
/-! DEFINITION. The status bits, how a completion and a write-1-to-clear change them, the interrupt output, and the
words that registers made of fields read as (spec 10 R33 to R52, spec 60 R351 to R357). -/

namespace Sys2Proof.Machine

open Sys2Proof

/-- STATUS.BUSY, which mirrors SEQ (spec 10 R31, R38). -/
def State.busy (s : State) : Bool :=
  match s.seq with
  | .idle => false
  | .busy _ => true

/-- irq = CTRL.IRQ_EN AND STATUS.DONE, a level at every instant (spec 10 R61, spec 60 R357). -/
def State.irq (s : State) : Bool := s.irqEn && s.done

/-- The level GQE drives on input n of the platform's interrupt controller: irq on GQE_IRQ, nothing elsewhere
(spec 60 R357). -/
def State.irqInput (s : State) (n : Nat) : Bool := n == s.params.gqeIrq && s.irq

/-- STATUS.ERR after a completion with a code: set by a code that is not OK, otherwise left (spec 10 R40). -/
def errAfter (err : Bool) (code : ResultCode) : Bool := err || code != .ok

/-- Write 1 to clear: a status bit after the host writes b to it (spec 10 R39 to R41). -/
def clearedBy (bit b : Bool) : Bool := bit && !b

/-- The 4-bit value of a result code (spec 60 R351). -/
def ResultCode.value : ResultCode → BitVec 4
  | .ok => 0
  | .invalidParameters => 1
  | .invalidInput => 2
  | .authenticationFailed => 3
  | .keyAgreementFailed => 4
  | .unknownPayloadVariant => 5
  | .keyNotFound => 6
  | .invalidTrailerLength => 7
  | .decryptFailed => 8
  | .malformedPlaintext => 9
  | .illegalCommand => 10

/-- The 2-bit value of a key type (spec 10 R52). -/
def KeyType.value : KeyType → BitVec 2
  | .none => 0
  | .sym => 1
  | .priv => 2
  | .pub => 3

/-- The key type of a 2-bit value (spec 10 R52). -/
def KeyType.ofValue (v : BitVec 2) : KeyType :=
  match v.toNat with
  | 0 => .none
  | 1 => .sym
  | 2 => .priv
  | _ => .pub

/-- ID (spec 10 R33). -/
def idWord : Word := 0x47514531

/-- VERSION (spec 10 R34). -/
def versionWord : Word := 0x00000100

/-- PARAM: ABUF_BYTES in [31:16], DBUF_BYTES in [15:0] (spec 10 R35). -/
def paramWord (p : Params) : Word := BitVec.ofNat 16 p.abufBytes ++ BitVec.ofNat 16 p.dbufBytes

/-- CTRL: IRQ_EN in [0]; SRST and the reserved bits read 0 (spec 10 R36). -/
def State.ctrlWord (s : State) : Word := (BitVec.ofBool s.irqEn).setWidth 32

/-- STATUS: DKEY_VALID [5], CCM_READY [4], WIGN [3], ERR [2], DONE [1], BUSY [0] (spec 10 R38 to R42). -/
def State.statusWord (s : State) : Word :=
  (0#26 ++ BitVec.ofBool s.dkeyValid ++ BitVec.ofBool s.latch.ready ++ BitVec.ofBool s.wign ++
    BitVec.ofBool s.err ++ BitVec.ofBool s.done ++ BitVec.ofBool s.busy : BitVec (26 + 1 + 1 + 1 + 1 + 1 + 1))

/-- RESULT: OP [23:16], CAUSE [11:8], CODE [3:0] (spec 10 R43). -/
def State.resultWord (s : State) : Word :=
  (0#8 ++ s.resultOp ++ 0#4 ++ s.cause.value ++ 0#4 ++ s.code.value : BitVec (8 + 8 + 4 + 4 + 4 + 4))

/-- CCMCFG: NONCESIZE [11:8], TAGSIZE [4:0] (spec 10 R47). -/
def State.ccmcfgWord (s : State) : Word :=
  (0#20 ++ s.nonceSize ++ 0#3 ++ s.tagSize : BitVec (20 + 4 + 3 + 5))

/-- CCMSTAT: KLEN [21:16], NS [11:8], M [4:0], all 0 while CCM_READY = 0 (spec 10 R48). -/
def State.ccmstatWord (s : State) : Word :=
  if s.latch.ready then
    (0#10 ++ s.latch.cklen ++ 0#4 ++ s.latch.ns ++ 0#3 ++ s.latch.m : BitVec (10 + 6 + 4 + 4 + 3 + 5))
  else 0

/-- ENV: ROUTE [8], VARIANT [1:0] (spec 10 R50). -/
def State.envWord (s : State) : Word :=
  (0#23 ++ BitVec.ofBool s.route ++ 0#6 ++ s.variant : BitVec (23 + 1 + 6 + 2))

/-- KEYCTLn: KLEN [13:8], TYPE [1:0] (spec 10 R52). -/
def KeySlot.ctlWord (k : KeySlot) : Word :=
  (0#18 ++ k.klen ++ 0#6 ++ k.type.value : BitVec (18 + 6 + 6 + 2))

end Sys2Proof.Machine
end

