-- ==== Sys2Proof/Machine/Ops.lean ====
section
/-! DEFINITION. The named operations over memory and registers: reading and writing buffer bytes (spec 20 R83 to R86),
accepting and completing a command (spec 60 R353, R354), clearing the CCM latch, and the two resets (spec 70 R381 to
R384). GQE has no exception entry and no return from one (spec 60 R350, R361, R362): completion is the whole effect of
a failure, and acceptance of the next command its counterpart. -/

namespace Sys2Proof.Machine

open Sys2Proof

/-- The written value of the byte at a window offset, if it has been written. -/
def Memory.get? : Memory → Nat → Option Byte
  | [], _ => none
  | (a, b) :: m, x => if a = x then some b else Memory.get? m x

/-- The cells of a byte string laid out from a window offset up. -/
def cellsAt : Nat → List Byte → Memory
  | _, [] => []
  | a, b :: bs => (a, b) :: cellsAt (a + 1) bs

/-- Write a byte string at window offsets base, base + 1, ... -/
def Memory.write (m : Memory) (base : Nat) (bs : List Byte) : Memory :=
  m.filter (fun c => c.1 < base) ++ cellsAt base bs ++ m.filter (fun c => base + bs.length ≤ c.1)

/-- The canonical form: offsets strictly rising. No entry equals what an unlisted byte reads as, since that is no
written value at all. -/
abbrev Memory.wf (m : Memory) : Prop := m.Pairwise fun c d => c.1 < d.1

/-- The window offset of DBUF byte 0 (spec 20 R85). -/
def dbufBase : Nat := 0x400

/-- The window offset of ABUF byte 0 (spec 20 R86). -/
def abufBase : Nat := 0x800

/-- The buffer byte at a window offset: its written value, or the free value of an unwritten byte (spec 70 R382). -/
def State.byteAt (s : State) (a : Nat) : Byte :=
  (s.mem.get? a).getD (Config.unwrittenByte s.bufDraw a)

/-- The n buffer bytes from a window offset up. -/
def State.bytesAt (s : State) (base n : Nat) : List Byte := (List.range n).map fun i => s.byteAt (base + i)

/-- DBUF[0..n) (spec 00 R15). -/
def State.dbuf (s : State) (n : Nat) : List Byte := s.bytesAt dbufBase n

/-- ABUF[0..n) (spec 00 R15). -/
def State.abuf (s : State) (n : Nat) : List Byte := s.bytesAt abufBase n

/-- Write a byte string into the buffers at a window offset. -/
def State.writeMem (s : State) (base : Nat) (bs : List Byte) : State := { s with mem := s.mem.write base bs }

/-- DBUF[0..|bs|) <- bs (spec 00 R15). -/
def State.writeDbuf (s : State) (bs : List Byte) : State := s.writeMem dbufBase bs

/-- The command word being executed, w of BUSY(w) (spec 10 R31). When the sequencer is idle no command runs; the word
then is the last accepted one, which CMD holds (log entry 9). -/
def State.commandWord (s : State) : Word :=
  match s.seq with
  | .idle => s.cmd
  | .busy w => w

/-- complete(code, cause): the end of the command being executed (spec 60 R353). -/
def State.complete (s : State) (code cause : ResultCode) : State :=
  { s with
    code := code, cause := cause, resultOp := s.commandWord.extractLsb' 0 8
    done := true, err := errAfter s.err code, seq := .idle }

/-- complete(code) means complete(code, code) (spec 00 R15). -/
def State.completeWith (s : State) (code : ResultCode) : State := s.complete code code

/-- Acceptance of a command word written to CMD while the sequencer is idle (spec 60 R354). -/
def State.accept (s : State) (w : Word) : State := { s with cmd := w, done := false, seq := .busy w }

/-- OLEN <- n (spec 10 R44). -/
def State.withOlen (s : State) (n : BitVec 16) : State := { s with olen := n }

/-- TAG <- t, a 16-byte string (spec 10 R55). -/
def State.withTag (s : State) (t : List Byte) : State := { s with tag := pack 128 t }

/-- NONCE <- n, a 13-byte string (spec 10 R51). -/
def State.withNonce (s : State) (n : List Byte) : State := { s with nonce := pack 104 n }

/-- OUT <- u, a 32-byte string (spec 10 R56). -/
def State.withOut (s : State) (u : List Byte) : State := { s with out := pack 256 u }

/-- DIGEST <- d, a 32-byte string (spec 10 R57). -/
def State.withDigest (s : State) (d : List Byte) : State := { s with digest := pack 256 d }

/-- DKEY <- k, a 32-byte string, with its valid bit (spec 10 R60). -/
def State.withDkey (s : State) (k : List Byte) (valid : Bool) : State :=
  { s with dkey := pack 256 k, dkeyValid := valid }

/-- The CCM latch <- l (spec 10 R59). -/
def State.withLatch (s : State) (l : CcmLatch) : State := { s with latch := l }

/-- The platform's power-on reset: every register at its reset value, every buffer byte unspecified, a running command
abandoned (spec 70 R381, R382). -/
def State.powerOnReset (s : State) : State := State.powerOn s.params s.host s.draws

/-- The soft reset: as the power-on reset, but DBUF and ABUF keep every byte when the sequencer is idle and become
unspecified when it is busy (spec 70 R383, R384). -/
def State.softReset (s : State) : State :=
  if s.busy then s.powerOnReset
  else { s.powerOnReset with mem := s.mem, bufDraw := s.bufDraw, draws := s.draws }

/-- The bus answers the host (the model's record of it, newest first; log entry 7). -/
def State.answer (s : State) (r : Response) : State :=
  { s with host := { s.host with responses := r :: s.host.responses } }

/-- The events still to come (log entry 5). -/
def State.withPending (s : State) (es : List HostEvent) : State := { s with host := { s.host with pending := es } }

end Sys2Proof.Machine
end

