-- ==== Sys2Proof/Machine/Operands.lean ====
section
/-! DEFINITION. The operand forms of the commands: key slots and their predicates, the latched key and sizes, nonce,
tag, data and associated data, and the shared input checks (spec 10 R52 to R59, spec 41 R171 to R174, R185). -/

namespace Sys2Proof.Machine

open Sys2Proof

/-- The key slot a KS field names (spec 30 R112). -/
def State.slot (s : State) : SlotSel → KeySlot
  | .slot0 => s.slot0
  | .slot1 => s.slot1

/-- KLEN in 16, 24, 32: a legal AES key length (spec 00 R10). -/
def aesKeyLength (n : Nat) : Bool := n == 16 || n == 24 || n == 32

/-- sym_ok (spec 10 R54). -/
def KeySlot.symOk (k : KeySlot) : Bool := k.type == .sym && aesKeyLength k.klen.toNat

/-- priv_ok (spec 10 R54). -/
def KeySlot.privOk (k : KeySlot) : Bool := k.type == .priv && k.klen.toNat == 32

/-- pub_ok (spec 10 R54). -/
def KeySlot.pubOk (k : KeySlot) : Bool := k.type == .pub && k.klen.toNat == 32

/-- peer_ok (spec 10 R54). -/
def KeySlot.peerOk (k : KeySlot) : Bool := k.pubOk || k.privOk

/-- KEYn, the 32-byte string of a slot (spec 00 R15). -/
def KeySlot.bytes (k : KeySlot) : List Byte := unpack 32 k.key

/-- KEYn[0..KLEN) (spec 10 R52). -/
def KeySlot.keyBytes (k : KeySlot) : List Byte := k.bytes.take k.klen.toNat

/-- valid_params(t, n) (spec 41 R171). -/
def validParams (t n : Nat) : Bool :=
  decide (7 ≤ n) && decide (n ≤ 13) && t % 2 == 0 && decide (4 ≤ t) && decide (t ≤ 16)

/-- CKEY[0..CKLEN) (spec 41 R186). -/
def CcmLatch.keyBytes (l : CcmLatch) : List Byte := (unpack 32 l.ckey).take l.cklen.toNat

/-- DKEY as a 32-byte string (spec 10 R60). -/
def State.dkeyBytes (s : State) : List Byte := unpack 32 s.dkey

/-- The nonce operand, NONCE[0..NS) (spec 41 R173). -/
def State.nonceOperand (s : State) : List Byte := (unpack 13 s.nonce).take s.latch.ns.toNat

/-- The supplied-tag operand, TAG[0..M) (spec 41 R174). -/
def State.tagOperand (s : State) : List Byte := (unpack 16 s.tag).take s.latch.m.toNat

/-- The input DBUF[0..LEN) (spec 10 R45). -/
def State.dataIn (s : State) : List Byte := s.dbuf s.len.toNat

/-- The AAD, ABUF[0..ALEN) (spec 10 R46). -/
def State.aadIn (s : State) : List Byte := s.abuf s.alen.toNat

/-- LEN > DBUF_BYTES (spec 10 R45). -/
def State.lenTooBig (s : State) : Bool := decide (s.params.dbufBytes < s.len.toNat)

/-- ALEN > ABUF_BYTES (spec 10 R46). -/
def State.alenTooBig (s : State) : Bool := decide (s.params.abufBytes < s.alen.toNat)

/-- The common input checks of CCM_SEAL, CCM_OPEN and CCM_TAG, in their order: the code of the first that fails
(spec 41 R185). -/
def State.ccmInputCheck (s : State) : Option ResultCode :=
  if !s.latch.ready then some .invalidParameters
  else if s.lenTooBig || s.alenTooBig then some .invalidInput
  else if s.len = 0 then some .invalidInput
  else none

/-- The input checks of CTR_XOR, in their order (spec 41 R189). -/
def State.ctrInputCheck (s : State) : Option ResultCode :=
  if !s.latch.ready then some .invalidParameters
  else if s.lenTooBig then some .invalidInput
  else none

end Sys2Proof.Machine
end

