-- ==== Sys2Proof/Machine/Bus.lean ====
section
/-! DEFINITION. The host's accesses: the register map, what a read returns and what a write does, idle and busy, and
the bus error (spec 10 R32 to R62, spec 20 R80 to R98, spec 60 R354). -/

namespace Sys2Proof.Machine

open Sys2Proof

/-- The registers of the map of spec 10 R32. A number k is a word of a register group; o is a byte offset into a
buffer, a multiple of 4. -/
inductive Reg where
  | id
  | version
  | param
  | ctrl
  | cmd
  | status
  | result
  | olen
  | len
  | alen
  | ccmcfg
  | ccmstat
  | pktid
  | sender
  | xnonce
  | env
  | nonce (k : Nat)
  | tag (k : Nat)
  | keyctl (n : SlotSel)
  | key (n : SlotSel) (k : Nat)
  | out (k : Nat)
  | digest (k : Nat)
  | dbuf (o : Nat)
  | abuf (o : Nat)
  /-- Every other offset, read as zero and writes ignored (spec 10 R62). -/
  | reserved
  deriving DecidableEq, Repr

/-- The single registers of the map, by offset (spec 10 R32). -/
def singleReg (off : Nat) : Reg :=
  match off with
  | 0x000 => .id
  | 0x004 => .version
  | 0x008 => .param
  | 0x00C => .ctrl
  | 0x010 => .cmd
  | 0x014 => .status
  | 0x018 => .result
  | 0x01C => .olen
  | 0x020 => .len
  | 0x024 => .alen
  | 0x028 => .ccmcfg
  | 0x02C => .ccmstat
  | 0x030 => .pktid
  | 0x034 => .sender
  | 0x038 => .xnonce
  | 0x03C => .env
  | 0x060 => .keyctl .slot0
  | 0x064 => .keyctl .slot1
  | _ => .reserved

/-- The register or buffer word at a word-aligned window offset (spec 10 R32, spec 20 R85, R86). -/
def regAt (p : Params) (off : Nat) : Reg :=
  if 0x040 ≤ off ∧ off < 0x050 then .nonce ((off - 0x040) / 4)
  else if 0x050 ≤ off ∧ off < 0x060 then .tag ((off - 0x050) / 4)
  else if 0x080 ≤ off ∧ off < 0x0A0 then .key .slot0 ((off - 0x080) / 4)
  else if 0x0A0 ≤ off ∧ off < 0x0C0 then .key .slot1 ((off - 0x0A0) / 4)
  else if 0x0C0 ≤ off ∧ off < 0x0E0 then .out ((off - 0x0C0) / 4)
  else if 0x0E0 ≤ off ∧ off < 0x100 then .digest ((off - 0x0E0) / 4)
  else if dbufBase ≤ off ∧ off < dbufBase + p.dbufBytes then .dbuf (off - dbufBase)
  else if abufBase ≤ off ∧ off < abufBase + p.abufBytes then .abuf (off - abufBase)
  else singleReg off

/-- The access column of the map (spec 10 R32). -/
inductive RegAccess where
  /-- Read only: writes are ignored. -/
  | ro
  /-- Write only: reads return 0. -/
  | wo
  /-- Read and write. -/
  | rw
  /-- Reads as zero, writes ignored. -/
  | razwi
  deriving DecidableEq, Repr

/-- How the host may access a register (spec 10 R32). STATUS, RO with its W1C bits, has a write effect of its own and
counts as rw here. -/
def Reg.access : Reg → RegAccess
  | .id | .version | .param | .result | .olen | .ccmstat | .out _ | .digest _ => .ro
  | .key _ _ => .wo
  | .ctrl | .cmd | .status | .len | .alen | .ccmcfg | .pktid | .sender | .xnonce | .env => .rw
  | .nonce _ | .tag _ | .keyctl _ | .dbuf _ | .abuf _ => .rw
  | .reserved => .razwi

/-- What a read of a register returns while the sequencer is idle (spec 10 R33 to R62, spec 20 R84). -/
def State.readReg (s : State) : Reg → Word
  | .id => idWord
  | .version => versionWord
  | .param => paramWord s.params
  | .ctrl => s.ctrlWord
  | .cmd => s.cmd
  | .status => s.statusWord
  | .result => s.resultWord
  | .olen => s.olen.setWidth 32
  | .len => s.len.setWidth 32
  | .alen => s.alen.setWidth 32
  | .ccmcfg => s.ccmcfgWord
  | .ccmstat => s.ccmstatWord
  | .pktid => s.pktid
  | .sender => s.sender
  | .xnonce => s.xnonce
  | .env => s.envWord
  | .nonce k => getWord s.nonce k
  | .tag k => getWord s.tag k
  | .keyctl n => (s.slot n).ctlWord
  | .key _ _ => 0
  | .out k => getWord s.out k
  | .digest k => getWord s.digest k
  | .dbuf o => pack 32 (s.bytesAt (dbufBase + o) 4)
  | .abuf o => pack 32 (s.bytesAt (abufBase + o) 4)
  | .reserved => 0

/-- The registers whose reads return their value while the sequencer is busy (spec 20 R93). -/
def Reg.readableBusy : Reg → Bool
  | .id | .version | .param | .ctrl | .cmd | .status | .key _ _ | .reserved => true
  | .result | .olen | .len | .alen | .ccmcfg | .ccmstat | .pktid | .sender | .xnonce | .env => false
  | .nonce _ | .tag _ | .keyctl _ | .out _ | .digest _ | .dbuf _ | .abuf _ => false

/-- A word read at a window offset: the register's value, or while the sequencer is busy a free draw for every
register but those of spec 20 R93. -/
def State.hostRead (s : State) (off : Nat) : State :=
  let r := regAt s.params off
  if s.busy && !r.readableBusy then
    State.answer { s with draws := s.draws + 1 } (.data (Config.busyRead s.draws))
  else s.answer (.data (s.readReg r))

/-- A key slot with its KEYCTLn written (spec 10 R52). -/
def KeySlot.withCtl (k : KeySlot) (w : Word) : KeySlot :=
  { k with type := KeyType.ofValue (w.extractLsb' 0 2), klen := w.extractLsb' 8 6 }

/-- A key slot with word j of its key bytes written (spec 10 R53). -/
def KeySlot.withKeyWord (k : KeySlot) (j : Nat) (w : Word) : KeySlot := { k with key := setWord k.key j w }

/-- A state with a key slot replaced (spec 10 R52). -/
def State.withSlot (s : State) (n : SlotSel) (k : KeySlot) : State :=
  match n with
  | .slot0 => { s with slot0 := k }
  | .slot1 => { s with slot1 := k }

/-- A write to CTRL, busy or idle: the soft reset when bit 1 is set, else IRQ_EN (spec 10 R36). -/
def State.writeCtrl (s : State) (w : Word) : State :=
  if w.getLsbD 1 then s.softReset else { s with irqEn := w.getLsbD 0 }

/-- A write to STATUS, busy or idle: bits 1, 2 and 3 are write-1-to-clear (spec 10 R39 to R42). -/
def State.writeStatus (s : State) (w : Word) : State :=
  { s with
    done := clearedBy s.done (w.getLsbD 1), err := clearedBy s.err (w.getLsbD 2)
    wign := clearedBy s.wign (w.getLsbD 3) }

/-- A write to a register while the sequencer is idle (spec 10 R36 to R62, spec 20 R84, spec 60 R354). -/
def State.writeReg (s : State) (r : Reg) (w : Word) : State :=
  match r with
  | .ctrl => s.writeCtrl w
  | .status => s.writeStatus w
  | .cmd => s.accept w
  | .len => { s with len := w.extractLsb' 0 16 }
  | .alen => { s with alen := w.extractLsb' 0 16 }
  | .ccmcfg => { s with tagSize := w.extractLsb' 0 5, nonceSize := w.extractLsb' 8 4 }
  | .pktid => { s with pktid := w }
  | .sender => { s with sender := w }
  | .xnonce => { s with xnonce := w }
  | .env => { s with variant := w.extractLsb' 0 2, route := w.getLsbD 8 }
  | .nonce k => { s with nonce := setWord s.nonce k w }
  | .tag k => { s with tag := setWord s.tag k w }
  | .keyctl n => s.withSlot n ((s.slot n).withCtl w)
  | .key n k => s.withSlot n ((s.slot n).withKeyWord k w)
  | .dbuf o => s.writeMem (dbufBase + o) (leBytes 4 w.toNat)
  | .abuf o => s.writeMem (abufBase + o) (leBytes 4 w.toNat)
  | .id | .version | .param | .result | .olen | .ccmstat | .out _ | .digest _ | .reserved => s

/-- A write to a register while the sequencer is busy: CTRL and STATUS as their rules say, read-only and reserved
ignored, every other write ignored with WIGN set (spec 20 R92). -/
def State.writeRegBusy (s : State) (r : Reg) (w : Word) : State :=
  match r with
  | .ctrl => s.writeCtrl w
  | .status => s.writeStatus w
  | .id | .version | .param | .result | .olen | .ccmstat | .out _ | .digest _ | .reserved => s
  | .cmd | .len | .alen | .ccmcfg | .pktid | .sender | .xnonce | .env => { s with wign := true }
  | .nonce _ | .tag _ | .keyctl _ | .key _ _ | .dbuf _ | .abuf _ => { s with wign := true }

/-- A word write at a window offset (spec 20 R88, R92). -/
def State.hostWrite (s : State) (off : Nat) (w : Word) : State :=
  let r := regAt s.params off
  State.answer (if s.busy then s.writeRegBusy r w else s.writeReg r w) .written

/-- The window offset of an access: the 12 offset bits GQE decodes, when the address is in the window (spec 20
R80). -/
def Access.offset (p : Params) (a : Access) : Option Nat :=
  if p.gqeBase ≤ a.addr ∧ a.addr < p.gqeBase + 4096 then some (a.addr % 4096) else none

/-- An access GQE performs: 32 bits wide, at a multiple of 4, a write with a whole byte mask (spec 20 R81). -/
def Access.wellShaped (a : Access) (off : Nat) : Bool :=
  a.width == .bits32 && off % 4 == 0 &&
    match a.kind with
    | .read => true
    | .write mask _ => mask == 0xF

/-- One host access: performed and answered, or the bus error with no other effect (spec 20 R81, R82; log entries 7
and 8). -/
def hostAccess (a : Access) (s : State) : Host.Outcome State Fault Refusal :=
  match a.offset s.params with
  | none => .fault .outsideWindow
  | some off =>
    if a.wellShaped off then
      match a.kind with
      | .read => .next (s.hostRead off)
      | .write _ w => .next (s.hostWrite off w)
    else .next (s.answer .busError)

end Sys2Proof.Machine
end

