-- ==== Sys2Proof/Machine/Aes.lean ====
section
/-! DEFINITION. The block-cipher substrate: AES encryption E(K, X) (spec 40 R140 to R149; log entry 14). The AES state
is the 16-byte string X itself: s[r][c] is byte r + 4c (spec 40 R142). -/

namespace Sys2Proof.Machine

open Sys2Proof

/-- xtime(a), multiplication by 0x02 in GF(2^8) modulo 0x11B (spec 40 R142). -/
def xtime (a : Byte) : Byte := (a <<< 1) ^^^ (if a.getLsbD 7 then 0x1B else 0x00)

/-- Multiplication by 0x03 in GF(2^8) (spec 40 R142). -/
def times3 (a : Byte) : Byte := xtime a ^^^ a

/-- The S-box table of spec 40 R143, row = high hexadecimal digit, column = low digit. -/
def sboxTable : List (List Byte) :=
  [[0x63, 0x7c, 0x77, 0x7b, 0xf2, 0x6b, 0x6f, 0xc5, 0x30, 0x01, 0x67, 0x2b, 0xfe, 0xd7, 0xab, 0x76],
   [0xca, 0x82, 0xc9, 0x7d, 0xfa, 0x59, 0x47, 0xf0, 0xad, 0xd4, 0xa2, 0xaf, 0x9c, 0xa4, 0x72, 0xc0],
   [0xb7, 0xfd, 0x93, 0x26, 0x36, 0x3f, 0xf7, 0xcc, 0x34, 0xa5, 0xe5, 0xf1, 0x71, 0xd8, 0x31, 0x15],
   [0x04, 0xc7, 0x23, 0xc3, 0x18, 0x96, 0x05, 0x9a, 0x07, 0x12, 0x80, 0xe2, 0xeb, 0x27, 0xb2, 0x75],
   [0x09, 0x83, 0x2c, 0x1a, 0x1b, 0x6e, 0x5a, 0xa0, 0x52, 0x3b, 0xd6, 0xb3, 0x29, 0xe3, 0x2f, 0x84],
   [0x53, 0xd1, 0x00, 0xed, 0x20, 0xfc, 0xb1, 0x5b, 0x6a, 0xcb, 0xbe, 0x39, 0x4a, 0x4c, 0x58, 0xcf],
   [0xd0, 0xef, 0xaa, 0xfb, 0x43, 0x4d, 0x33, 0x85, 0x45, 0xf9, 0x02, 0x7f, 0x50, 0x3c, 0x9f, 0xa8],
   [0x51, 0xa3, 0x40, 0x8f, 0x92, 0x9d, 0x38, 0xf5, 0xbc, 0xb6, 0xda, 0x21, 0x10, 0xff, 0xf3, 0xd2]] ++
  [[0xcd, 0x0c, 0x13, 0xec, 0x5f, 0x97, 0x44, 0x17, 0xc4, 0xa7, 0x7e, 0x3d, 0x64, 0x5d, 0x19, 0x73],
   [0x60, 0x81, 0x4f, 0xdc, 0x22, 0x2a, 0x90, 0x88, 0x46, 0xee, 0xb8, 0x14, 0xde, 0x5e, 0x0b, 0xdb],
   [0xe0, 0x32, 0x3a, 0x0a, 0x49, 0x06, 0x24, 0x5c, 0xc2, 0xd3, 0xac, 0x62, 0x91, 0x95, 0xe4, 0x79],
   [0xe7, 0xc8, 0x37, 0x6d, 0x8d, 0xd5, 0x4e, 0xa9, 0x6c, 0x56, 0xf4, 0xea, 0x65, 0x7a, 0xae, 0x08],
   [0xba, 0x78, 0x25, 0x2e, 0x1c, 0xa6, 0xb4, 0xc6, 0xe8, 0xdd, 0x74, 0x1f, 0x4b, 0xbd, 0x8b, 0x8a],
   [0x70, 0x3e, 0xb5, 0x66, 0x48, 0x03, 0xf6, 0x0e, 0x61, 0x35, 0x57, 0xb9, 0x86, 0xc1, 0x1d, 0x9e],
   [0xe1, 0xf8, 0x98, 0x11, 0x69, 0xd9, 0x8e, 0x94, 0x9b, 0x1e, 0x87, 0xe9, 0xce, 0x55, 0x28, 0xdf],
   [0x8c, 0xa1, 0x89, 0x0d, 0xbf, 0xe6, 0x42, 0x68, 0x41, 0x99, 0x2d, 0x0f, 0xb0, 0x54, 0xbb, 0x16]]

/-- SBOX[a] (spec 40 R143). -/
def sbox (a : Byte) : Byte := (sboxTable.getD (a.toNat / 16) []).getD (a.toNat % 16) 0

/-- SubBytes (spec 40 R143); SubWord is the same on a 4-byte string (spec 40 R147). -/
def subBytes (s : List Byte) : List Byte := s.map sbox

/-- ShiftRows: s'[r][c] = s[r][(c + r) mod 4] (spec 40 R144). -/
def shiftRows (s : List Byte) : List Byte :=
  (List.range 16).map fun i => s.getD (i % 4 + 4 * ((i / 4 + i % 4) % 4)) 0

/-- MixColumns on one column (spec 40 R145). -/
def mixColumn (a0 a1 a2 a3 : Byte) : List Byte :=
  [xtime a0 ^^^ times3 a1 ^^^ a2 ^^^ a3,
   a0 ^^^ xtime a1 ^^^ times3 a2 ^^^ a3,
   a0 ^^^ a1 ^^^ xtime a2 ^^^ times3 a3,
   times3 a0 ^^^ a1 ^^^ a2 ^^^ xtime a3]

/-- MixColumns (spec 40 R145). -/
def mixColumns (s : List Byte) : List Byte :=
  (List.range 4).flatMap fun c =>
    mixColumn (s.getD (4 * c) 0) (s.getD (4 * c + 1) 0) (s.getD (4 * c + 2) 0) (s.getD (4 * c + 3) 0)

/-- RotWord (spec 40 R147). -/
def rotWord (t : List Byte) : List Byte := t.drop 1 ++ t.take 1

/-- Rcon[i] = xtime^(i-1)(0x01) (spec 40 R147). -/
def rcon : Nat → Byte
  | 0 => 0x00
  | 1 => 0x01
  | i + 1 => xtime (rcon i)

/-- Word j of the expanded key, from the words before it (spec 40 R147). -/
def nextKeyWord (nk j : Nat) (ws : List (List Byte)) : List Byte :=
  let t := ws.getD (j - 1) []
  let t :=
    if j % nk = 0 then xorBytes (subBytes (rotWord t)) (rcon (j / nk) :: zeros 3)
    else if nk = 8 ∧ j % nk = 4 then subBytes t
    else t
  xorBytes (ws.getD (j - nk) []) t

/-- The words w[0 .. j+n) of the expanded key, from w[0 .. j) (spec 40 R147). -/
def expandFrom (nk : Nat) : (n j : Nat) → List (List Byte) → List (List Byte)
  | 0, _, ws => ws
  | n + 1, j, ws => expandFrom nk n (j + 1) (ws ++ [nextKeyWord nk j ws])

/-- Nk, the number of 32-bit key words: 4, 6 or 8 for |K| = 16, 24 or 32 (spec 40 R141). -/
def keyWords (k : List Byte) : Nat := k.length / 4

/-- Nr, the number of rounds: 10, 12 or 14 for Nk = 4, 6 or 8 (spec 40 R141). -/
def roundCount (k : List Byte) : Nat := keyWords k + 6

/-- The expanded key, 4(Nr + 1) words (spec 40 R147). -/
def expandKey (k : List Byte) : List (List Byte) :=
  expandFrom (keyWords k) (4 * (roundCount k + 1) - keyWords k) (keyWords k) (blocksOf 4 k)

/-- Round key i as the 16-byte string w[4i] || w[4i+1] || w[4i+2] || w[4i+3] (spec 40 R146). -/
def roundKey (ws : List (List Byte)) (i : Nat) : List Byte := ((ws.drop (4 * i)).take 4).flatten

/-- AddRoundKey(i) (spec 40 R146). -/
def addRoundKey (ws : List (List Byte)) (i : Nat) (s : List Byte) : List Byte := xorBytes s (roundKey ws i)

/-- A middle round: SubBytes, ShiftRows, MixColumns, AddRoundKey(i) (spec 40 R148). -/
def aesRound (ws : List (List Byte)) (s : List Byte) (i : Nat) : List Byte :=
  addRoundKey ws i (mixColumns (shiftRows (subBytes s)))

/-- E(K, X), AES encryption of the 16-byte block X under the key K (spec 40 R140, R148). -/
def aes (k x : List Byte) : List Byte :=
  let ws := expandKey k
  let nr := roundCount k
  let s := (List.range (nr - 1)).foldl (fun s i => aesRound ws s (i + 1)) (addRoundKey ws 0 x)
  addRoundKey ws nr (shiftRows (subBytes s))

end Sys2Proof.Machine
end

