-- ==== Sys2Proof/Machine/Ccm.lean ====
section
/-! DEFINITION. The CCM engine's pure functions: CBC-MAC tag, CTR keystream, Seal and Open (spec 41 R175 to R184; the
document's own construction, spec 90 C1). -/

namespace Sys2Proof.Machine

open Sys2Proof

/-- L, the length-field width, 15 - N (spec 00 R8). -/
def lengthWidth (nonce : List Byte) : Nat := 15 - nonce.length

/-- The flags byte of B0 (spec 41 R175). -/
def b0Flags (m : Nat) (nonce aad : List Byte) : Byte :=
  BitVec.ofNat 8 (0x40 * (if aad = [] then 0 else 1) + 0x08 * ((m - 2) / 2) + (lengthWidth nonce - 1))

/-- B0 = flags || nonce || BE_L(|P|) (spec 41 R176). -/
def b0Block (m : Nat) (nonce aad p : List Byte) : List Byte :=
  b0Flags m nonce aad :: (nonce ++ beBytes (lengthWidth nonce) p.length)

/-- The AAD blocks: none for the empty AAD, else those of pad16(BE_2(|A|) || A) (spec 41 R177). -/
def aadBlocks (aad : List Byte) : List (List Byte) :=
  if aad = [] then [] else blocksOf 16 (pad16 (beBytes 2 aad.length ++ aad))

/-- One CBC-MAC step, X = E(K, X XOR B) (spec 41 R178). -/
def macStep (k x b : List Byte) : List Byte := aes k (xorBytes x b)

/-- CBCMAC(K, nonce, M, A, P) (spec 41 R178). -/
def cbcMac (k nonce : List Byte) (m : Nat) (aad p : List Byte) : List Byte :=
  let x := aes k (b0Block m nonce aad p)
  let x := (aadBlocks aad).foldl (macStep k) x
  let x := (blocksOf 16 (pad16 p)).foldl (macStep k) x
  x.take m

/-- Counter block A_i = BE_1(L - 1) || nonce || BE_L(i) (spec 41 R179). -/
def counterBlock (nonce : List Byte) (i : Nat) : List Byte :=
  beBytes 1 (lengthWidth nonce - 1) ++ nonce ++ beBytes (lengthWidth nonce) i

/-- The keystream of n bytes, ceil(n / 16) blocks cut to n bytes (spec 41 R180). -/
def keystream (k nonce : List Byte) (n : Nat) : List Byte :=
  ((List.range ((n + 15) / 16)).flatMap fun i => aes k (counterBlock nonce i)).take n

/-- CTR(K, nonce, D) = D XOR KS(K, nonce, |D|) (spec 41 R181). -/
def ctr (k nonce d : List Byte) : List Byte := xorBytes d (keystream k nonce d.length)

/-- Seal(K, nonce, M, A, P) = (C, T) (spec 41 R182). -/
def ccmSealFn (k nonce : List Byte) (m : Nat) (aad p : List Byte) : List Byte × List Byte :=
  (ctr k nonce p, cbcMac k nonce m aad p)

/-- Open(K, nonce, M, A, C, T): the plaintext, or none for FAIL (spec 41 R183, R184). -/
def ccmOpenFn (k nonce : List Byte) (m : Nat) (aad c t : List Byte) : Option (List Byte) :=
  let p := ctr k nonce c
  if cbcMac k nonce m aad p = t then some p else none

end Sys2Proof.Machine
end

