-- ==== Sys2Proof/Machine/Housekeeping.lean ====
section
/-! DEFINITION. The housekeeping family: NOP, ZEROIZE and the completion of an illegal word (spec 47 R340 to R342). -/

namespace Sys2Proof.Machine

open Sys2Proof

/-- An illegal command word completes with ILLEGAL_COMMAND and changes no other state (spec 47 R342). -/
def State.illegalCommand (s : State) : State := s.completeWith .illegalCommand

/-- NOP (spec 47 R340). -/
def execNop (s : State) : Host.Outcome State Fault Refusal := .next (s.completeWith .ok)

/-- Every byte of both buffers written zero (spec 47 R341). -/
def State.zeroBuffers (s : State) : State :=
  (s.writeMem dbufBase (zeros s.params.dbufBytes)).writeMem abufBase (zeros s.params.abufBytes)

/-- Every key, derived value and result cleared, the configuration registers kept (spec 47 R341). -/
def State.zeroKeys (s : State) : State :=
  { s with
    slot0 := KeySlot.reset, slot1 := KeySlot.reset, latch := CcmLatch.reset, dkey := 0, dkeyValid := false
    out := 0, digest := 0, tag := 0, nonce := 0 }

/-- ZEROIZE (spec 47 R341). -/
def execZeroize (s : State) : Host.Outcome State Fault Refusal :=
  .next ((s.zeroKeys.zeroBuffers.withOlen 0).completeWith .ok)

end Sys2Proof.Machine
end

