-- ==== Sys2Proof/Machine/CcmCommands.lean ====
section
/-! DEFINITION. The CCM family: CCM_NEW, CCM_SEAL, CCM_OPEN, CCM_TAG and CTR_XOR (spec 41 R172, R185 to R189). -/

namespace Sys2Proof.Machine

open Sys2Proof

/-- The latch CCM_NEW fills from a key string and the requested sizes: CKEY = K || zeros (spec 41 R172). -/
def State.newLatch (s : State) (k : List Byte) : CcmLatch where
  ready := true
  ckey := pack 256 (k ++ zeros (32 - k.length))
  cklen := BitVec.ofNat 6 k.length
  m := s.tagSize
  ns := s.nonceSize

/-- CCM_NEW with a key source: a usable key and legal sizes fill the latch, anything else clears it (spec 41 R172). -/
def State.ccmNewFrom (s : State) (keyOk : Bool) (k : List Byte) : State :=
  if validParams s.tagSize.toNat s.nonceSize.toNat && keyOk then
    (s.withLatch (s.newLatch k)).completeWith .ok
  else (s.withLatch CcmLatch.reset).completeWith .invalidParameters

/-- CCM_NEW (spec 41 R172). DK = 1 takes DKEY, DK = 0 the slot KS; DK = 1 with KS = 1 is no command and completes as
the illegal word it stands for (spec 30 R113, R116; log entry 10). -/
def execCcmNew (ks : SlotSel) (dk : Bool) (s : State) : Host.Outcome State Fault Refusal :=
  match dk, ks with
  | false, _ => .next (s.ccmNewFrom (s.slot ks).symOk (s.slot ks).keyBytes)
  | true, .slot0 => .next (s.ccmNewFrom s.dkeyValid s.dkeyBytes)
  | true, .slot1 => .next s.illegalCommand

/-- T || zeros(16 - M), what CCM_SEAL and CCM_TAG leave in TAG (spec 10 R55). -/
def tagPadded (t : List Byte) : List Byte := t ++ zeros (16 - t.length)

/-- CCM_SEAL (spec 41 R186). -/
def execCcmSeal (s : State) : Host.Outcome State Fault Refusal :=
  match s.ccmInputCheck with
  | some c => .next ((s.withOlen 0).completeWith c)
  | none =>
    let ct := ccmSealFn s.latch.keyBytes s.nonceOperand s.latch.m.toNat s.aadIn s.dataIn
    .next ((((s.writeDbuf ct.1).withTag (tagPadded ct.2)).withOlen s.len).completeWith .ok)

/-- CCM_OPEN (spec 41 R187). -/
def execCcmOpen (s : State) : Host.Outcome State Fault Refusal :=
  match s.ccmInputCheck with
  | some c => .next ((s.withOlen 0).completeWith c)
  | none =>
    match ccmOpenFn s.latch.keyBytes s.nonceOperand s.latch.m.toNat s.aadIn s.dataIn s.tagOperand with
    | none => .next ((s.withOlen 0).completeWith .authenticationFailed)
    | some p => .next (((s.writeDbuf p).withOlen s.len).completeWith .ok)

/-- CCM_TAG (spec 41 R188); it never writes OLEN. -/
def execCcmTag (s : State) : Host.Outcome State Fault Refusal :=
  match s.ccmInputCheck with
  | some c => .next (s.completeWith c)
  | none =>
    let t := cbcMac s.latch.keyBytes s.nonceOperand s.latch.m.toNat s.aadIn s.dataIn
    .next ((s.withTag (tagPadded t)).completeWith .ok)

/-- CTR_XOR (spec 41 R189). -/
def execCtrXor (s : State) : Host.Outcome State Fault Refusal :=
  match s.ctrInputCheck with
  | some c => .next ((s.withOlen 0).completeWith c)
  | none =>
    .next (((s.writeDbuf (ctr s.latch.keyBytes s.nonceOperand s.dataIn)).withOlen s.len).completeWith .ok)

end Sys2Proof.Machine
end

