-- ==== Sys2Proof/Machine/Sha256.lean ====
section
/-! DEFINITION. The SHA-256 function (spec 44 R260 to R266). -/

namespace Sys2Proof.Machine

open Sys2Proof

/-- Ch (spec 44 R260). -/
def shaCh (x y z : Word) : Word := (x &&& y) ^^^ (~~~x &&& z)

/-- Maj (spec 44 R260). -/
def shaMaj (x y z : Word) : Word := (x &&& y) ^^^ (x &&& z) ^^^ (y &&& z)

/-- S0 (spec 44 R260). -/
def shaBigS0 (x : Word) : Word := x.rotateRight 2 ^^^ x.rotateRight 13 ^^^ x.rotateRight 22

/-- S1 (spec 44 R260). -/
def shaBigS1 (x : Word) : Word := x.rotateRight 6 ^^^ x.rotateRight 11 ^^^ x.rotateRight 25

/-- s0 (spec 44 R260). -/
def shaSmallS0 (x : Word) : Word := x.rotateRight 7 ^^^ x.rotateRight 18 ^^^ (x >>> 3)

/-- s1 (spec 44 R260). -/
def shaSmallS1 (x : Word) : Word := x.rotateRight 17 ^^^ x.rotateRight 19 ^^^ (x >>> 10)

/-- The hash value H[0..8), or the working variables a .. h (spec 44 R261, R265). -/
structure ShaHash where
  a : Word
  b : Word
  c : Word
  d : Word
  e : Word
  f : Word
  g : Word
  h : Word
  deriving DecidableEq, Repr

/-- The initial hash value H0 (spec 44 R261). -/
def shaInit : ShaHash where
  a := 0x6a09e667
  b := 0xbb67ae85
  c := 0x3c6ef372
  d := 0xa54ff53a
  e := 0x510e527f
  f := 0x9b05688c
  g := 0x1f83d9ab
  h := 0x5be0cd19

/-- The table of spec 44 R262, one line of it in each entry: the eight words of the line, most significant first. -/
def shaLines : List (BitVec 256) :=
  [0x428a2f98_71374491_b5c0fbcf_e9b5dba5_3956c25b_59f111f1_923f82a4_ab1c5ed5,
   0xd807aa98_12835b01_243185be_550c7dc3_72be5d74_80deb1fe_9bdc06a7_c19bf174,
   0xe49b69c1_efbe4786_0fc19dc6_240ca1cc_2de92c6f_4a7484aa_5cb0a9dc_76f988da,
   0x983e5152_a831c66d_b00327c8_bf597fc7_c6e00bf3_d5a79147_06ca6351_14292967,
   0x27b70a85_2e1b2138_4d2c6dfc_53380d13_650a7354_766a0abb_81c2c92e_92722c85,
   0xa2bfe8a1_a81a664b_c24b8b70_c76c51a3_d192e819_d6990624_f40e3585_106aa070,
   0x19a4c116_1e376c08_2748774c_34b0bcb5_391c0cb3_4ed8aa4a_5b9cca4f_682e6ff3,
   0x748f82ee_78a5636f_84c87814_8cc70208_90befffa_a4506ceb_bef9a3f7_c67178f2]

/-- Word t of a line of the table, its words counted from the most significant (spec 44 R262). -/
def shaLineWord (line : BitVec 256) (t : Nat) : Word := line.extractLsb' (32 * (7 - t)) 32

/-- The round constants K[0..64): the words of the table, line after line (spec 44 R262). -/
def shaK : List Word := shaLines.flatMap fun line => (List.range 8).map (shaLineWord line)

/-- Padding: m || 80 || zeros(z) || BE_8(8n), z = (55 - n) mod 64 (spec 44 R263). -/
def shaPad (m : List Byte) : List Byte :=
  m ++ [0x80] ++ zeros ((119 - m.length % 64) % 64) ++ beBytes 8 (8 * m.length)

/-- W[t] for t >= 16, from the words before it (spec 44 R264). -/
def shaNextWord (t : Nat) (ws : List Word) : Word :=
  shaSmallS1 (ws.getD (t - 2) 0) + ws.getD (t - 7) 0 + shaSmallS0 (ws.getD (t - 15) 0) + ws.getD (t - 16) 0

/-- The words W[0 .. t+n), from W[0 .. t) (spec 44 R264). -/
def shaExtend : (n t : Nat) → List Word → List Word
  | 0, _, ws => ws
  | n + 1, t, ws => shaExtend n (t + 1) (ws ++ [shaNextWord t ws])

/-- The message schedule of a 64-byte block (spec 44 R264). -/
def shaSchedule (b : List Byte) : List Word :=
  shaExtend 48 16 ((blocksOf 4 b).map fun q => BitVec.ofNat 32 (fromBE q))

/-- One round of the compression, with its K[t] and W[t] (spec 44 R265). -/
def shaRound (v : ShaHash) (kw : Word × Word) : ShaHash :=
  let t1 := v.h + shaBigS1 v.e + shaCh v.e v.f v.g + kw.1 + kw.2
  let t2 := shaBigS0 v.a + shaMaj v.a v.b v.c
  { h := v.g, g := v.f, f := v.e, e := v.d + t1, d := v.c, c := v.b, b := v.a, a := t1 + t2 }

/-- The wordwise sum of two hash values (spec 44 R265). -/
def shaAdd (x y : ShaHash) : ShaHash where
  a := x.a + y.a
  b := x.b + y.b
  c := x.c + y.c
  d := x.d + y.d
  e := x.e + y.e
  f := x.f + y.f
  g := x.g + y.g
  h := x.h + y.h

/-- The compression of one block into the hash value (spec 44 R265). -/
def shaCompress (hash : ShaHash) (b : List Byte) : ShaHash :=
  shaAdd hash ((shaK.zip (shaSchedule b)).foldl shaRound hash)

/-- BE_4 of each word of the hash value, in order (spec 44 R266). -/
def shaOutput (x : ShaHash) : List Byte :=
  [x.a, x.b, x.c, x.d, x.e, x.f, x.g, x.h].flatMap fun w => beBytes 4 w.toNat

/-- SHA256(m) (spec 44 R266). -/
def sha256 (m : List Byte) : List Byte :=
  shaOutput ((blocksOf 64 (shaPad m)).foldl shaCompress shaInit)

end Sys2Proof.Machine
end

