-- ==== Sys2Proof/Machine/X25519.lean ====
section
/-! DEFINITION. The X25519 function: field arithmetic, decoding, the Montgomery ladder, encoding (spec 43 R230 to
R237). Strings are 32-byte strings. -/

namespace Sys2Proof.Machine

open Sys2Proof

/-- p = 2^255 - 19 (spec 43 R230). -/
def fieldPrime : Nat := 2 ^ 255 - 19

/-- a + b modulo p (spec 43 R230). -/
def fadd (a b : Nat) : Nat := (a + b) % fieldPrime

/-- a - b modulo p, the non-negative representative (spec 43 R230). -/
def fsub (a b : Nat) : Nat := (a + (fieldPrime - b % fieldPrime)) % fieldPrime

/-- a * b modulo p (spec 43 R230). -/
def fmul (a b : Nat) : Nat := a * b % fieldPrime

/-- b^e modulo p for e < 2^bits, by repeated squaring (spec 43 R230, R234). -/
def fpow (b : Nat) : (bits e : Nat) → Nat
  | 0, _ => 1
  | bits + 1, e => if e % 2 = 1 then fmul b (fpow (fmul b b) bits (e / 2)) else fpow (fmul b b) bits (e / 2)

/-- Clamping of a scalar string (spec 43 R231). -/
def clamp (k : List Byte) : List Byte :=
  let k := k.set 0 (k.getD 0 0 &&& 0xF8)
  let k := k.set 31 (k.getD 31 0 &&& 0x7F)
  k.set 31 (k.getD 31 0 ||| 0x40)

/-- The decoded scalar of a 32-byte string (spec 43 R231). -/
def decodeScalar (k : List Byte) : Nat := fromLE (clamp k)

/-- The decoded u-coordinate: bit 255 cleared, then reduced modulo p (spec 43 R232). -/
def decodeU (u : List Byte) : Nat := fromLE (u.set 31 (u.getD 31 0 &&& 0x7F)) % fieldPrime

/-- cswap(s, a, b) (spec 43 R235). -/
def cswap (s : Bool) (a b : Nat) : Nat × Nat := if s then (b, a) else (a, b)

/-- The variables of the ladder (spec 43 R234). -/
structure Ladder where
  x2 : Nat
  z2 : Nat
  x3 : Nat
  z3 : Nat
  swap : Bool
  deriving DecidableEq, Repr

/-- The conditional swap of both pairs; the swap bit stays (spec 43 R234). -/
def ladderSwap (swap : Bool) (s : Ladder) : Ladder :=
  { s with
    x2 := (cswap swap s.x2 s.x3).1, x3 := (cswap swap s.x2 s.x3).2
    z2 := (cswap swap s.z2 s.z3).1, z3 := (cswap swap s.z2 s.z3).2 }

/-- The field operations of one iteration, after its swap (spec 43 R234; a24 = 121665). -/
def ladderArith (x1 : Nat) (s : Ladder) : Ladder :=
  let a := fadd s.x2 s.z2
  let aa := fmul a a
  let b := fsub s.x2 s.z2
  let bb := fmul b b
  let e := fsub aa bb
  let c := fadd s.x3 s.z3
  let d := fsub s.x3 s.z3
  let da := fmul d a
  let cb := fmul c b
  { s with
    x3 := fmul (fadd da cb) (fadd da cb)
    z3 := fmul (fmul x1 (fsub da cb)) (fsub da cb)
    x2 := fmul aa bb
    z2 := fmul e (fadd aa (fmul 121665 e)) }

/-- One iteration of the ladder with the scalar bit kt (spec 43 R234). -/
def ladderStep (x1 : Nat) (kt : Bool) (s : Ladder) : Ladder :=
  { ladderArith x1 (ladderSwap (s.swap ^^ kt) s) with swap := kt }

/-- The iterations for t = n - 1 down to 0 (spec 43 R234). -/
def ladderLoop (k x1 : Nat) : (n : Nat) → Ladder → Ladder
  | 0, s => s
  | t + 1, s => ladderLoop k x1 t (ladderStep x1 (k.testBit t) s)

/-- The ladder of the decoded scalar k and the decoded u-coordinate x1 (spec 43 R234). -/
def ladder (k x1 : Nat) : Nat :=
  let s := ladderLoop k x1 255 { x2 := 1, z2 := 0, x3 := x1, z3 := 1, swap := false }
  let s := ladderSwap s.swap s
  fmul s.x2 (fpow s.z2 255 (fieldPrime - 2))

/-- X25519(k, u) (spec 43 R233, R236). -/
def x25519 (k u : List Byte) : List Byte := leBytes 32 (ladder (decodeScalar k) (decodeU u))

/-- The fixed base point, LE_32(9) (spec 43 R237). -/
def basePoint : List Byte := leBytes 32 9

/-- publicFromPrivate(k) = X25519(k, LE_32(9)) (spec 43 R237). -/
def publicFromPrivate (k : List Byte) : List Byte := x25519 k basePoint

end Sys2Proof.Machine
end

