-- ==== Sys2Proof/Machine/KeyCommands.lean ====
section
/-! DEFINITION. The key family: X25519_BASE, X25519, DERIVE_KEY and SHA256, with the peer resolution and the key
derivation (spec 43 R240, R241, spec 44 R267, spec 45 R290 to R293). -/

namespace Sys2Proof.Machine

open Sys2Proof

/-- X25519_BASE (spec 43 R240). -/
def execX25519Base (ks : SlotSel) (s : State) : Host.Outcome State Fault Refusal :=
  if (s.slot ks).privOk then
    .next ((s.withOut (publicFromPrivate (s.slot ks).bytes)).completeWith .ok)
  else .next (s.completeWith .invalidParameters)

/-- X25519 (spec 43 R241). OUT is written also when the result is all zero. -/
def execX25519 (s : State) : Host.Outcome State Fault Refusal :=
  if s.slot0.privOk && s.slot1.pubOk then
    let u := x25519 s.slot0.bytes s.slot1.bytes
    .next ((s.withOut u).completeWith (if u = zeros 32 then .keyAgreementFailed else .ok))
  else .next (s.completeWith .invalidParameters)

/-- peerPublic(): slot 1's public key, or the public key of its private scalar (spec 45 R290). -/
def KeySlot.peerPublic (k : KeySlot) : List Byte := if k.pubOk then k.bytes else publicFromPrivate k.bytes

/-- deriveSharedKey(a, B): the 32-byte key, or none for KEY_AGREEMENT_FAILED (spec 45 R291, R292). -/
def deriveSharedKey (a b : List Byte) : Option (List Byte) :=
  let secret := x25519 a b
  if secret = zeros 32 then none else some (sha256 secret)

/-- DERIVE_KEY (spec 45 R293). Every failure clears DKEY and DKEY_VALID. -/
def execDeriveKey (s : State) : Host.Outcome State Fault Refusal :=
  if s.slot0.privOk && s.slot1.peerOk then
    match deriveSharedKey s.slot0.bytes s.slot1.peerPublic with
    | none => .next ((s.withDkey (zeros 32) false).completeWith .keyAgreementFailed)
    | some k => .next ((s.withDkey k true).completeWith .ok)
  else .next ((s.withDkey (zeros 32) false).completeWith .invalidParameters)

/-- SHA256 (spec 44 R267). -/
def execSha256 (s : State) : Host.Outcome State Fault Refusal :=
  if s.lenTooBig then .next (s.completeWith .invalidInput)
  else .next ((s.withDigest (sha256 s.dataIn)).completeWith .ok)

end Sys2Proof.Machine
end

