-- ==== Sys2Proof/Machine/Nonce.lean ====
section
/-! DEFINITION. The nonce builder and NONCE_BUILD (spec 42 R220 to R222). -/

namespace Sys2Proof.Machine

open Sys2Proof

/-- buildNonce(packetId, counterpartyNodeId, extraNonce) (spec 42 R220). -/
def buildNonce (packetId counterpartyNodeId extraNonce : Word) : List Byte :=
  leBytes 4 packetId.toNat ++ leBytes 4 extraNonce.toNat ++ leBytes 4 counterpartyNodeId.toNat ++ [0x00]

/-- NONCE_BUILD (spec 42 R221). -/
def execNonceBuild (s : State) : Host.Outcome State Fault Refusal :=
  .next ((s.withNonce (buildNonce s.pktid s.sender s.xnonce)).completeWith .ok)

end Sys2Proof.Machine
end

