-- ==== Sys2Proof/Machine/Dispatcher.lean ====
section
/-! DEFINITION. The decode dispatcher and DISPATCH (spec 46 R310 to R322). -/

namespace Sys2Proof.Machine

open Sys2Proof

/-- What an encrypted path gives: the recovered bytes, or the specific failure (spec 46 R315, R316). -/
abbrev PathResult := Except ResultCode (List Byte)

/-- The channel path: CTR keystream under the channel key, no tag (spec 46 R315, R322). -/
def channelPath (k0 : KeySlot) (pktid sender : Word) (d : List Byte) : PathResult :=
  if k0.type ≠ .sym then .error .keyNotFound
  else if !aesKeyLength k0.klen.toNat then .error .invalidParameters
  else .ok (ctr k0.keyBytes (buildNonce pktid sender 0) d)

/-- A direct payload split into ciphertext, MAC and extra nonce (spec 46 R317). -/
structure DirectParts where
  ciphertext : List Byte
  mac : List Byte
  extraNonce : Word
  deriving DecidableEq, Repr

/-- The trailer split of a direct payload of at least 12 bytes (spec 46 R317). -/
def splitTrailer (d : List Byte) : DirectParts where
  ciphertext := d.take (d.length - 12)
  mac := (d.drop (d.length - 12)).take 8
  extraNonce := pack 32 (d.drop (d.length - 4))

/-- The checks of the key slots of the direct path, in their order (spec 46 R316). -/
def directKeyCheck (k0 k1 : KeySlot) : Option ResultCode :=
  if k0.type ≠ .priv then some .keyNotFound
  else if k0.klen ≠ 32 then some .invalidParameters
  else if k1.type ≠ .pub ∧ k1.type ≠ .priv then some .keyNotFound
  else if k1.klen ≠ 32 then some .invalidParameters
  else none

/-- Derive, build the nonce and Open: the steps of the direct path after its key checks, with M = 8, N = 13 and no AAD
(spec 46 R316). -/
def openDirect (k0 k1 : KeySlot) (pktid sender : Word) (parts : DirectParts) : PathResult :=
  match deriveSharedKey k0.bytes k1.peerPublic with
  | none => .error .keyAgreementFailed
  | some k =>
    if parts.ciphertext = [] then .error .invalidInput
    else
      match ccmOpenFn k (buildNonce pktid sender parts.extraNonce) 8 [] parts.ciphertext parts.mac with
      | none => .error .authenticationFailed
      | some p => .ok p

/-- The direct path (spec 46 R316). -/
def directPath (k0 k1 : KeySlot) (pktid sender : Word) (d : List Byte) : PathResult :=
  if d.length < 12 then .error .invalidTrailerLength
  else
    match directKeyCheck k0 k1 with
    | some c => .error c
    | none => openDirect k0 k1 pktid sender (splitTrailer d)

/-- The encrypted path ENV.ROUTE selects (spec 46 R311, R312). -/
def State.encryptedPath (s : State) : PathResult :=
  if s.route then directPath s.slot0 s.slot1 s.pktid s.sender s.dataIn
  else channelPath s.slot0 s.pktid s.sender s.dataIn

/-- The end of an encrypted path: plaintext in DBUF and its length in OLEN, or DECRYPT_FAILED with the specific failure
as CAUSE, OLEN = 0 and DBUF unchanged (spec 46 R318, R320). -/
def State.finishPath (s : State) : PathResult → State
  | .error c => (s.withOlen 0).complete .decryptFailed c
  | .ok p => ((s.writeDbuf p).withOlen (BitVec.ofNat 16 p.length)).completeWith .ok

/-- DISPATCH (spec 46 R312 to R316). -/
def execDispatch (s : State) : Host.Outcome State Fault Refusal :=
  if s.lenTooBig then .next ((s.withOlen 0).completeWith .invalidInput)
  else if s.variant = 0 then .next ((s.withOlen s.len).completeWith .ok)
  else if s.variant = 1 then .next (s.finishPath s.encryptedPath)
  else .next ((s.withOlen 0).completeWith .unknownPayloadVariant)

end Sys2Proof.Machine
end

