-- ==== Sys2Proof/Machine/Dispatch.lean ====
section
/-! DEFINITION. The meaning of each command, one arm per constructor (spec 30 R114). -/

namespace Sys2Proof.Machine

open Sys2Proof

def exec (i : Instr) (s : State) : Host.Outcome State Fault Refusal :=
  match i with
  | .nop => Sys2Proof.Machine.execNop s
  | .ccmNew ks dk => Sys2Proof.Machine.execCcmNew ks dk s
  | .ccmSeal => Sys2Proof.Machine.execCcmSeal s
  | .ccmOpen => Sys2Proof.Machine.execCcmOpen s
  | .ccmTag => Sys2Proof.Machine.execCcmTag s
  | .ctrXor => Sys2Proof.Machine.execCtrXor s
  | .nonceBuild => Sys2Proof.Machine.execNonceBuild s
  | .x25519Base ks => Sys2Proof.Machine.execX25519Base ks s
  | .x25519 => Sys2Proof.Machine.execX25519 s
  | .deriveKey => Sys2Proof.Machine.execDeriveKey s
  | .sha256 => Sys2Proof.Machine.execSha256 s
  | .dispatch => Sys2Proof.Machine.execDispatch s
  | .zeroize => Sys2Proof.Machine.execZeroize s

end Sys2Proof.Machine
end

