-- ==== Sys2Proof/Machine/Sequencer.lean ====
section
/-! DEFINITION. The engine's turn and the host's turn: running the command word in SEQ, and taking the next event of
the host and the platform (spec 10 R30, R31, spec 30 R116, spec 70 R395; log entry 5). -/

namespace Sys2Proof.Machine

open Sys2Proof

/-- Run a command word: its command's meaning, or the completion of an illegal word (spec 30 R116, spec 47 R342). -/
def runWord (w : Word) (s : State) : Host.Outcome State Fault Refusal :=
  match decode w with
  | .ok i => exec i s
  | .error _ => .next s.illegalCommand

/-- The engine's turn: the one atomic completion step of a running command; nothing when the sequencer is idle (spec
70 R395). -/
def engineTurn (s : State) : Host.Outcome State Fault Refusal :=
  match s.seq with
  | .idle => .next s
  | .busy w => runWord w s

/-- The window offset of STATUS (spec 10 R32). -/
def statusOffset : Nat := 0x014

/-- One turn of the wait loop: a read of STATUS; the loop ends with the read that sees BUSY = 0. While the command
runs, polls more reads see BUSY = 1 and then the completion is scheduled (spec 30 R118, spec 93 U10). -/
def waitTurn (polls : Nat) (rest : List HostEvent) (s : State) : Host.Outcome State Fault Refusal :=
  if s.busy then
    match polls with
    | 0 => engineTurn s
    | k + 1 => .next ((s.withPending (.wait k :: rest)).hostRead statusOffset)
  else .next ((s.withPending rest).hostRead statusOffset)

/-- Take one event, with rest the events after it (spec 20 R90, spec 60 R360). -/
def takeEvent (e : HostEvent) (rest : List HostEvent) (s : State) : Host.Outcome State Fault Refusal :=
  match e with
  | .access a => hostAccess a (s.withPending rest)
  | .wait polls => waitTurn polls rest s
  | .engine => engineTurn (s.withPending rest)
  | .powerOn => .next (s.withPending rest).powerOnReset

/-- The events to queue so that the engine has the next turn: none when nothing is pending, since the engine then has
every turn (log entry 12). -/
def engineFirst : List HostEvent → List HostEvent
  | [] => []
  | e :: es => .engine :: e :: es

end Sys2Proof.Machine
end

