-- ==== Sys2Proof/Machine/Step.lean ====
section
/-! DEFINITION. One step of the machine, and a command word placed where the next step runs it (spec 10 R30, R31,
spec 70 R395). -/

namespace Sys2Proof.Machine

open Sys2Proof

/-- One step: the next pending event of the host or the platform; the engine's turn when none is pending, so that a
running command completes while the host waits (spec 70 R395; log entry 5). -/
def step (s : State) : Host.Outcome State Fault Refusal :=
  match s.host.pending with
  | [] => engineTurn s
  | e :: rest => takeEvent e rest s

/-- s with a command word accepted (spec 60 R354), its bits above nbits 0, and the engine's turn next: GQE fetches no
instruction, a command is the word the host wrote to CMD (spec 20 R97; log entry 12). -/
def State.withFetchWord (s : State) (nbits w : Nat) : State :=
  (s.accept (BitVec.ofNat 32 (w % 2 ^ nbits))).withPending (engineFirst s.host.pending)

end Sys2Proof.Machine
end

