-- ==== Sys2Proof/Machine/Driver.lean ====
section
/-! DEFINITION. The driver assembly of spec 30 R118 and R119: each instruction and pseudo-instruction as the host
events it stands for. -/

namespace Sys2Proof.Machine

open Sys2Proof

/-- The window offset of a register by name (spec 10 R32). The reserved offsets have no name of their own: the driver
reaches them by number, and Reg.reserved stands at the first of them after the named registers. -/
def Reg.offset : Reg → Nat
  | .id => 0x000
  | .version => 0x004
  | .param => 0x008
  | .ctrl => 0x00C
  | .cmd => 0x010
  | .status => 0x014
  | .result => 0x018
  | .olen => 0x01C
  | .len => 0x020
  | .alen => 0x024
  | .ccmcfg => 0x028
  | .ccmstat => 0x02C
  | .pktid => 0x030
  | .sender => 0x034
  | .xnonce => 0x038
  | .env => 0x03C
  | .nonce k => 0x040 + 4 * k
  | .tag k => 0x050 + 4 * k
  | .keyctl .slot0 => 0x060
  | .keyctl .slot1 => 0x064
  | .key .slot0 k => 0x080 + 4 * k
  | .key .slot1 k => 0x0A0 + 4 * k
  | .out k => 0x0C0 + 4 * k
  | .digest k => 0x0E0 + 4 * k
  | .dbuf o => dbufBase + o
  | .abuf o => abufBase + o
  | .reserved => 0x100

/-- The operand <reg> of `wr` and `rd` (spec 30 R118): a name of the map, the word at a byte offset of a buffer among
them, or a hexadecimal window offset. A name past the end of its group (KEY0_8, DBUF+o with o outside the buffer) is no
name of the map, and the spec does not say what it stands for: here it stands for the offset its group would reach
(DESIGN CHOICE, log entry 18). -/
inductive DrvReg where
  | named (r : Reg)
  | hex (off : Nat)
  deriving DecidableEq, Repr

/-- The window offset an operand <reg> stands for (spec 30 R118). -/
def DrvReg.offset : DrvReg → Nat
  | .named r => r.offset
  | .hex off => off

/-- `wr <reg>, <value>`: a 32-bit write (spec 30 R118). -/
def wr (p : Params) (r : DrvReg) (v : Word) : HostEvent :=
  .access { addr := p.gqeBase + r.offset, width := .bits32, kind := .write 0xF v }

/-- `rd <reg>`: a 32-bit read (spec 30 R118). -/
def rd (p : Params) (r : DrvReg) : HostEvent :=
  .access { addr := p.gqeBase + r.offset, width := .bits32, kind := .read }

/-- The mnemonics of the opcode map (spec 30 R114), as `cmd` and `run` take them: without options. -/
inductive Mnemonic where
  | nop
  | ccmNew
  | ccmSeal
  | ccmOpen
  | ccmTag
  | ctrXor
  | nonceBuild
  | x25519Base
  | x25519
  | deriveKey
  | sha256
  | dispatch
  | zeroize
  deriving DecidableEq, Repr

/-- The command a mnemonic names when no option is given: KS = 0 and DK = 0 (spec 30 R119). -/
def Mnemonic.command : Mnemonic → Instr
  | .nop => .nop
  | .ccmNew => .ccmNew .slot0 false
  | .ccmSeal => .ccmSeal
  | .ccmOpen => .ccmOpen
  | .ccmTag => .ccmTag
  | .ctrXor => .ctrXor
  | .nonceBuild => .nonceBuild
  | .x25519Base => .x25519Base .slot0
  | .x25519 => .x25519
  | .deriveKey => .deriveKey
  | .sha256 => .sha256
  | .dispatch => .dispatch
  | .zeroize => .zeroize

/-- w = OP | KS << 8 | DK << 9, legal or not: any mnemonic takes either option (spec 30 R119). -/
def drvWord (m : Mnemonic) (ks : SlotSel) (dk : Bool) : Word :=
  m.command.opcode.setWidth 32 ||| ((BitVec.ofBool ks.bit).setWidth 32 <<< 8) |||
    ((BitVec.ofBool dk).setWidth 32 <<< 9)

/-- `cmd <MNEMONIC> [ks=<0|1>] [dk]`, with KS = 0 and DK = 0 where the option is not given (spec 30 R119). -/
def drvCmd (p : Params) (m : Mnemonic) (ks : SlotSel := .slot0) (dk : Bool := false) : List HostEvent :=
  [wr p (.named .cmd) (drvWord m ks dk)]

/-- `run <MNEMONIC> [ks=<0|1>] [dk]`: cmd, then wait, with the number of polls that see BUSY = 1 (spec 30 R119). -/
def drvRun (p : Params) (m : Mnemonic) (polls : Nat) (ks : SlotSel := .slot0) (dk : Bool := false) :
    List HostEvent :=
  drvCmd p m ks dk ++ [.wait polls]

/-- The writes of a byte string's words to a register group or a buffer, 4 bytes at a time from word j on, the last
group padded with zero bytes (spec 30 R119). -/
def drvWords (p : Params) (at_ : Nat → Reg) : (n j : Nat) → List Byte → List HostEvent
  | 0, _, _ => []
  | n + 1, j, b => wr p (.named (at_ j)) (pack 32 (b.take 4)) :: drvWords p at_ n (j + 1) (b.drop 4)

/-- `ldkey <n>, <TYPE>, <hex bytes>` (spec 30 R119). For more than 32 bytes the expansion names words KEYn_8 and up,
which are no registers of the map, and the spec does not say what is written: here the writes run on at the offsets
after the slot, KEY0_8 at KEY1_0 and KEY1_8 at OUT0 (DESIGN CHOICE, log entry 18). -/
def drvLdkey (p : Params) (n : SlotSel) (t : KeyType) (b : List Byte) : List HostEvent :=
  wr p (.named (.keyctl n)) (t.value.setWidth 32 ||| (BitVec.ofNat 32 b.length <<< 8)) ::
    drvWords p (.key n) ((b.length + 3) / 4) 0 b

/-- `ldbuf <hex bytes>` (spec 30 R119). For more bytes than DBUF holds the writes run on at the offsets after it (DESIGN
CHOICE, log entry 18). -/
def drvLdbuf (p : Params) (b : List Byte) : List HostEvent :=
  drvWords p (fun j => .dbuf (4 * j)) ((b.length + 3) / 4) 0 b ++ [wr p (.named .len) (BitVec.ofNat 32 b.length)]

/-- `ldaad <hex bytes>` (spec 30 R119). For more bytes than ABUF holds the writes run on at the offsets after it (DESIGN
CHOICE, log entry 18). -/
def drvLdaad (p : Params) (b : List Byte) : List HostEvent :=
  drvWords p (fun j => .abuf (4 * j)) ((b.length + 3) / 4) 0 b ++ [wr p (.named .alen) (BitVec.ofNat 32 b.length)]

/-- `clr`: clears DONE, ERR and WIGN (spec 30 R119). -/
def drvClr (p : Params) : List HostEvent := [wr p (.named .status) 0xE]

end Sys2Proof.Machine
end

