-- ==== Sys2Proof/Safety.lean ====
section
/-! DEFINITION. The terms claims use: the invariant every step keeps, where the buffers lie, which bytes an operation
leaves alone, and what of the state the host cannot see. -/

namespace Sys2Proof.Machine

open Sys2Proof

/-- A window offset of an implemented DBUF or ABUF byte (spec 20 R85, R86). -/
abbrev inBuffer (p : Params) (a : Nat) : Prop :=
  (dbufBase ≤ a ∧ a < dbufBase + p.dbufBytes) ∨ (abufBase ≤ a ∧ a < abufBase + p.abufBytes)

/-- A CCM latch as CCM_NEW, ZEROIZE and the resets leave it: legal sizes and key length with CKEY zero beyond them when
CCM_READY = 1, all zero when it is 0 (spec 10 R48, R59, spec 41 R171, R172). -/
abbrev CcmLatch.Legal (l : CcmLatch) : Prop :=
  if l.ready then
    validParams l.m.toNat l.ns.toNat = true ∧ aesKeyLength l.cklen.toNat = true ∧
      l.ckey.toNat < 2 ^ (8 * l.cklen.toNat)
  else l = CcmLatch.reset

/-- What the machine keeps true at every step (spec 10, spec 20, spec 60). -/
structure Invariant (s : State) : Prop where
  /-- The parameters are legal (spec 00 R7). -/
  params : s.params.Legal
  /-- The buffers' cells are in canonical form. -/
  memWf : s.mem.wf
  /-- Only implemented buffer bytes are ever written (spec 20 R85, R86, R89). -/
  memInBuffers : ∀ c ∈ s.mem, inBuffer s.params c.1
  /-- The CCM latch is legal (spec 10 R59). -/
  latch : s.latch.Legal
  /-- No derived key is held while DKEY_VALID = 0 (spec 45 R293). -/
  dkey : s.dkeyValid = false → s.dkey = 0
  /-- While a command runs CMD holds its word and DONE is 0 (spec 60 R354). -/
  busy : ∀ w, s.seq = .busy w → s.cmd = w ∧ s.done = false
  /-- GQE never reports MALFORMED_PLAINTEXT, in CODE or in CAUSE (spec 60 R351). -/
  notMalformed : s.code ≠ .malformedPlaintext ∧ s.cause ≠ .malformedPlaintext
  /-- CAUSE equals CODE but for a DISPATCH whose encrypted path failed (spec 60 R352). -/
  causeIsCode : s.cause = s.code ∨ (s.code = .decryptFailed ∧ s.resultOp = 0x20)
  /-- OLEN never exceeds DBUF_BYTES (spec 10 R44). -/
  olen : s.olen.toNat ≤ s.params.dbufBytes
  /-- OUT holds an encoded field element, so its bit 255 is 0 (spec 43 R233). -/
  out : s.out.toNat < fieldPrime
  /-- The draw of the unwritten buffer bytes has been taken (the model's own). -/
  drawTaken : s.bufDraw < s.draws

/-- Every buffer byte outside [lo, lo + n) reads in t as it does in s. -/
def SameBytesOutside (lo n : Nat) (s t : State) : Prop :=
  ∀ a, ¬(lo ≤ a ∧ a < lo + n) → t.byteAt a = s.byteAt a

/-- Every buffer byte reads in t as it does in s. -/
def SameBytes (s t : State) : Prop := ∀ a, t.byteAt a = s.byteAt a

/-- A state with the key bytes of both slots and the internal keys CKEY and DKEY blanked: what is left is all that a
host access may depend on (spec 10 R53, R59, R60, spec 20 R98). -/
def State.withoutKeys (s : State) : State :=
  { s with
    slot0 := { s.slot0 with key := 0 }, slot1 := { s.slot1 with key := 0 }
    latch := { s.latch with ckey := 0 }, dkey := 0 }

/-- A state with the host's side of the bus and the draw counter blanked: GQE's own state, which a read leaves alone
(spec 20 R88). -/
def State.core (s : State) : State := { s with host := { pending := [], responses := [] }, draws := 0 }

/-- A state with the fields a completion writes blanked: RESULT, DONE, ERR and SEQ (spec 60 R353). -/
def State.withoutResult (s : State) : State :=
  { s with code := .ok, cause := .ok, resultOp := 0, done := false, err := false, seq := .idle }

/-- A state after the completion of the command word w with a code and a cause (spec 60 R353): the words of the rule,
for statements to end in. -/
def State.ended (s : State) (w : Word) (code cause : ResultCode) : State :=
  { s with
    code := code, cause := cause, resultOp := w.extractLsb' 0 8, done := true
    err := if code = .ok then s.err else true, seq := .idle }

/-- The value of a result code, as the table of spec 60 R351 numbers it: for statements. -/
def ResultCode.number : ResultCode → Nat
  | .ok => 0
  | .invalidParameters => 1
  | .invalidInput => 2
  | .authenticationFailed => 3
  | .keyAgreementFailed => 4
  | .unknownPayloadVariant => 5
  | .keyNotFound => 6
  | .invalidTrailerLength => 7
  | .decryptFailed => 8
  | .malformedPlaintext => 9
  | .illegalCommand => 10

/-- STATUS as the sum of its bits (spec 10 R38 to R42), for statements: BUSY 0, DONE 1, ERR 2, WIGN 3, CCM_READY 4,
DKEY_VALID 5, the others zero. -/
def State.statusNumber (s : State) : Nat :=
  (if s.seq = .idle then 0 else 1) + s.done.toNat * 2 + s.err.toNat * 4 + s.wign.toNat * 8 +
    s.latch.ready.toNat * 16 + s.dkeyValid.toNat * 32

/-- RESULT as the sum of its fields (spec 10 R43), for statements: CODE from bit 0, CAUSE from bit 8, OP from bit 16. -/
def State.resultNumber (s : State) : Nat :=
  s.code.number + s.cause.number * 2 ^ 8 + s.resultOp.toNat * 2 ^ 16

/-- CCMSTAT as the sum of its fields (spec 10 R48), for statements: M from bit 0, NS from bit 8, KLEN from bit 16, and 0
while CCM_READY = 0. -/
def State.ccmstatNumber (s : State) : Nat :=
  if s.latch.ready then s.latch.m.toNat + s.latch.ns.toNat * 2 ^ 8 + s.latch.cklen.toNat * 2 ^ 16 else 0

/-- While the sequencer is idle the host reads the word v at the window offset off, and the read does nothing else. -/
def State.Shows (s : State) (off v : Nat) : Prop := s.hostRead off = s.answer (.data (BitVec.ofNat 32 v))

/-- An illegal command word, in the words of spec 30 R116. -/
def IllegalWord (w : Word) : Prop :=
  opField w ∉ [0x00#8, 0x01#8, 0x02#8, 0x03#8, 0x04#8, 0x05#8, 0x08#8, 0x10#8, 0x11#8, 0x12#8, 0x18#8, 0x20#8, 0x3F#8] ∨
    rsvField w ≠ 0 ∨
    (ksField w = true ∧ opField w ≠ 0x01#8 ∧ opField w ≠ 0x10#8) ∨
    (dkField w = true ∧ opField w ≠ 0x01#8) ∨
    (opField w = 0x01#8 ∧ dkField w = true ∧ ksField w = true)

/-- The engine has the next turn, with es the events after it: nothing is pending, or the engine's turn is, or a wait
loop whose polls are over. -/
def State.engineNext (s : State) (es : List HostEvent) : Prop :=
  (s.host.pending = [] ∧ es = []) ∨ s.host.pending = .engine :: es ∨
    (∃ rest, s.host.pending = .wait 0 :: rest ∧ es = .wait 0 :: rest)

/-- The next event is a reset: the power-on reset, or a write of CTRL with bit 1 set (spec 70 R380). -/
def State.resetNext (s : State) : Prop :=
  ∃ rest, s.host.pending = .powerOn :: rest ∨
    ∃ a m w, s.host.pending = .access a :: rest ∧ a.kind = .write m w ∧ a.offset s.params = some 0x00C ∧
      a.wellShaped 0x00C = true ∧ w.getLsbD 1 = true

/-- A register of the map that the host can name (spec 10 R32): its word number or byte offset is in range. -/
def Reg.named (p : Params) : Reg → Prop
  | .nonce k | .tag k => k < 4
  | .key _ k | .out k | .digest k => k < 8
  | .dbuf o => o % 4 = 0 ∧ o < p.dbufBytes
  | .abuf o => o % 4 = 0 ∧ o < p.abufBytes
  | .reserved => False
  | _ => True

/-- The bits of a RW register that hold what the host writes (spec 10 R45 to R52); none of any other register. -/
def Reg.mask : Reg → Word
  | .len | .alen => 0x0000FFFF
  | .ccmcfg => 0x00000F1F
  | .pktid | .sender | .xnonce => 0xFFFFFFFF
  | .env => 0x00000103
  | .nonce k => if k < 3 then 0xFFFFFFFF else 0x000000FF
  | .tag _ | .dbuf _ | .abuf _ => 0xFFFFFFFF
  | .keyctl _ => 0x00003F03
  | _ => 0

/-- The operands of every command, as they stand (spec 30 R117): lengths, sizes, identifiers, routing, the key slots,
DKEY, the CCM latch, the nonce and the tag. -/
def State.operands (s : State) :=
  (s.len, s.alen, s.tagSize, s.nonceSize, s.pktid, s.sender, s.xnonce, s.variant, s.route,
    s.slot0, s.slot1, s.dkey, s.dkeyValid, s.latch, s.nonce, s.tag)

end Sys2Proof.Machine
end

