-- ==== Sys2Proof/Certificates/Slice0/Obligations.lean ====
section
/-! DEFINITION. The statements for the provers, from the numbered rules of spec/ (each docstring names the rule). -/

open Sys2Proof Sys2Proof.Machine

/-! Encoding -/

/-- Decode and encode agree on every word and every command: a word decodes to a command exactly when the command is
well-formed and the word is its encoding (spec 30 R111, R114). -/
def Obligations.DecodeEncodeAgree : Prop :=
  ∀ (w : Word) (i : Instr), decode w = .ok i ↔ i.wf = true ∧ encode i = w

/-- The mask and match of each legal word (spec 30 R115). -/
def Obligations.LegalWordsByMaskAndMatch : Prop :=
  ∀ w : Word,
    (∀ i ∈ [Instr.nop, .ccmSeal, .ccmOpen, .ccmTag, .ctrXor, .nonceBuild, .x25519, .deriveKey, .sha256, .dispatch,
        .zeroize], decode w = .ok i ↔ w &&& 0xFFFFFFFF#32 = i.opcode.setWidth 32) ∧
    ((∃ ks, decode w = .ok (.x25519Base ks)) ↔ w &&& 0xFFFFFEFF#32 = 0x00000010#32) ∧
    (decode w = .ok (.ccmNew .slot0 false) ↔ w = 0x00000001#32) ∧
    (decode w = .ok (.ccmNew .slot1 false) ↔ w = 0x00000101#32) ∧
    (decode w = .ok (.ccmNew .slot0 true) ↔ w = 0x00000201#32) ∧
    (∃ e, decode 0x00000301#32 = .error e) ∧
    ((∃ ks dk, decode w = .ok (.ccmNew ks dk)) ↔ w &&& 0xFFFFFCFF#32 = 0x00000001#32 ∧ w ≠ 0x00000301#32)

/-- Which words are illegal, and that an illegal word written to CMD is accepted and completes with ILLEGAL_COMMAND,
changing nothing but CMD, RESULT, DONE and ERR (spec 30 R116, spec 47 R342). -/
def Obligations.IllegalWordCompletesAlone : Prop :=
  ∀ w : Word,
    ((∃ e, decode w = .error e) ↔ IllegalWord w) ∧
    (∀ s : State, s.seq = .idle → IllegalWord w →
      engineTurn (s.writeReg .cmd w) =
        .next { s with
          cmd := w, code := .illegalCommand, cause := .illegalCommand, resultOp := w.extractLsb' 0 8
          done := true, err := true }) ∧
    (∀ n : Nat, n < 256 → opField w = BitVec.ofNat 8 n →
      (n = 6 ∨ n = 7 ∨ (9 ≤ n ∧ n ≤ 15) ∨ (0x13 ≤ n ∧ n ≤ 0x17) ∨ (0x19 ≤ n ∧ n ≤ 0x1F) ∨ (0x21 ≤ n ∧ n ≤ 0x3E) ∨
        0x40 ≤ n) → IllegalWord w)

/-- A few words written out from the spec's encoding decode to the commands they stand for (spec 30 R114). -/
def Obligations.WrittenWordsDecode : Prop :=
  decode 0x00000000#32 = .ok .nop ∧ decode 0x00000101#32 = .ok (.ccmNew .slot1 false) ∧
    decode 0x00000201#32 = .ok (.ccmNew .slot0 true) ∧ decode 0x00000003#32 = .ok .ccmOpen ∧
    decode 0x00000110#32 = .ok (.x25519Base .slot1) ∧ decode 0x00000020#32 = .ok .dispatch ∧
    decode 0x0000003F#32 = .ok .zeroize

/-! The step -/

/-- When the engine has the next turn and the word in SEQ decodes to a command, the step is that command's meaning, on
the state with the events after the engine's turn pending (spec 70 R395). The order of turns is the model's own plain
data (DESIGN CHOICE, log entries 5 and 12). -/
def Obligations.StepRunsDecodedCommand : Prop :=
  ∀ (s : State) (es : List HostEvent) (w : Word) (i : Instr),
    s.engineNext es → s.seq = .busy w → decode w = .ok i → step s = exec i (s.withPending es)

/-- A host that waits sees the command complete: with a wait loop of k polls pending and a command running, k + 2
steps end the loop, the command is complete, and the last answer is a STATUS with BUSY = 0 (spec 30 R118, spec 70
R395). The number of polls before the completion is the model's own data (DESIGN CHOICE, log entry 5). -/
def Obligations.WaitLoopEnds : Prop :=
  ∀ (k : Nat) (s : State) (w : Word) (rest : List HostEvent), s.seq = .busy w → s.host.pending = .wait k :: rest →
    ∃ t, Sys2Proof.core.run (k + 2) s = .next t ∧ t.seq = .idle ∧ t.done = true ∧ t.host.pending = rest ∧
      ∃ v : Word, t.host.responses.head? = some (.data v) ∧ v.getLsbD 0 = false ∧ v.getLsbD 1 = true

/-- Acceptance: a write of w to CMD while idle stores w, clears DONE and makes the sequencer BUSY(w); the command then
ends with a completion; while busy the write only sets WIGN (spec 60 R354). -/
def Obligations.CmdWriteAcceptsOrIsIgnored : Prop :=
  ∀ (s : State) (w : Word),
    (s.seq = .idle →
      s.hostWrite 0x010 w = ({ s with cmd := w, done := false, seq := .busy w } : State).answer .written ∧
        ∃ t, engineTurn (s.hostWrite 0x010 w) = .next t ∧ t.seq = .idle ∧ t.done = true) ∧
    (∀ v, s.seq = .busy v → s.hostWrite 0x010 w = ({ s with wign := true } : State).answer .written)

/-! Every command -/

/-- Every command, in every state, completes: the sequencer is idle, DONE is set, RESULT.OP is the command word's low
byte, ERR is set by a code that is not OK and kept otherwise (spec 60 R350, R353), and the host reads RESULT as
OP << 16 | CAUSE << 8 | CODE with the values of spec 60 R351 (spec 10 R43). -/
def Obligations.EveryCommandCompletes : Prop :=
  ∀ (i : Instr) (s : State) (w : Word), s.seq = .busy w →
    ∃ t, exec i s = .next t ∧ t.seq = .idle ∧ t.done = true ∧ t.resultOp = w.extractLsb' 0 8 ∧
      (t.code = .ok → t.err = s.err) ∧ (t.code ≠ .ok → t.err = true) ∧
      t.Shows 0x018 (t.code.number + t.cause.number * 2 ^ 8 + w.toNat % 2 ^ 8 * 2 ^ 16)

/-- No command changes CTRL, CMD, WIGN, LEN, ALEN, CCMCFG, PKTID, SENDER, XNONCE or ENV: they are state that no command
rule names as written (spec 00 R16). Nor does a command change what is the model's own: the parameters (log entry 1),
the host's side of the bus (log entry 5) and the draw counters (log entry 4). -/
def Obligations.CommandsKeepConfiguration : Prop :=
  ∀ (i : Instr) (s t : State), exec i s = .next t →
    t.params = s.params ∧ t.host = s.host ∧ t.draws = s.draws ∧ t.bufDraw = s.bufDraw ∧ t.irqEn = s.irqEn ∧
      t.cmd = s.cmd ∧ t.wign = s.wign ∧ t.len = s.len ∧ t.alen = s.alen ∧ t.tagSize = s.tagSize ∧
      t.nonceSize = s.nonceSize ∧ t.pktid = s.pktid ∧ t.sender = s.sender ∧ t.xnonce = s.xnonce ∧
      t.variant = s.variant ∧ t.route = s.route

/-- Which commands can change each result register, the latch, DKEY, the key slots and the buffers (spec 10 R44, R51,
R53 to R60, spec 20 R89). -/
def Obligations.EachResultHasItsCommands : Prop :=
  ∀ (i : Instr) (s t : State), exec i s = .next t →
    (t.latch ≠ s.latch → (∃ ks dk, i = .ccmNew ks dk) ∨ i = .zeroize) ∧
    (t.dkey ≠ s.dkey ∨ t.dkeyValid ≠ s.dkeyValid → i = .deriveKey ∨ i = .zeroize) ∧
    (t.olen ≠ s.olen → i ∈ [Instr.ccmSeal, .ccmOpen, .ctrXor, .dispatch, .zeroize]) ∧
    (t.tag ≠ s.tag → i ∈ [Instr.ccmSeal, .ccmTag, .zeroize]) ∧
    (t.out ≠ s.out → (∃ ks, i = .x25519Base ks) ∨ i ∈ [Instr.x25519, .zeroize]) ∧
    (t.digest ≠ s.digest → i ∈ [Instr.sha256, .zeroize]) ∧
    (t.nonce ≠ s.nonce → i ∈ [Instr.nonceBuild, .zeroize]) ∧
    (t.slot0 ≠ s.slot0 ∨ t.slot1 ≠ s.slot1 → i = .zeroize) ∧
    (∀ a, t.byteAt a ≠ s.byteAt a → i ∈ [Instr.ccmSeal, .ccmOpen, .ctrXor, .dispatch, .zeroize])

/-- The CCM latch changes only when CCM_NEW or ZEROIZE runs or a reset happens, and DKEY and DKEY_VALID only when
DERIVE_KEY or ZEROIZE runs or a reset happens: no host access and no other command changes them (spec 10 R59, R60). -/
def Obligations.LatchAndDkeyHaveTheirWriters : Prop :=
  ∀ s t : State, step s = .next t →
    (t.latch ≠ s.latch →
      s.resetNext ∨ ∃ es w i, s.engineNext es ∧ s.seq = .busy w ∧ decode w = .ok i ∧
        ((∃ ks dk, i = .ccmNew ks dk) ∨ i = .zeroize)) ∧
    (t.dkey ≠ s.dkey ∨ t.dkeyValid ≠ s.dkeyValid →
      s.resetNext ∨ ∃ es w i, s.engineNext es ∧ s.seq = .busy w ∧ decode w = .ok i ∧ (i = .deriveKey ∨ i = .zeroize))

/-- What a failed command leaves behind (spec 60 R356): the latch cleared by CCM_NEW, DKEY by DERIVE_KEY, OLEN = 0 by
CCM_SEAL, CCM_OPEN, CTR_XOR and DISPATCH, OUT = zeros by an X25519 of all-zero result, and for every other failure, an
illegal word's too, nothing but RESULT and STATUS; no failure changes a byte of a buffer. -/
def Obligations.FailedCommandLeaves : Prop :=
  ∀ (w : Word) (s t : State), runWord w s = .next t → t.code ≠ .ok →
    t.withoutResult =
      (match decode w with
        | .ok (.ccmNew _ _) => { s with latch := CcmLatch.reset }
        | .ok .deriveKey => { s with dkey := 0, dkeyValid := false }
        | .ok .ccmSeal | .ok .ccmOpen | .ok .ctrXor | .ok .dispatch => { s with olen := 0 }
        | .ok .x25519 => if t.code = .keyAgreementFailed then { s with out := 0 } else s
        | _ => s : State).withoutResult

/-- RESULT.CAUSE equals RESULT.CODE for every command but DISPATCH, and for DISPATCH unless an encrypted path failed:
then CODE is DECRYPT_FAILED and CAUSE one of the six specific failures; no other DISPATCH, and no other command, has
the code DECRYPT_FAILED (spec 60 R352, spec 46 R312, R318). -/
def Obligations.CauseIsCodeButForDispatch : Prop :=
  ∀ (i : Instr) (s t : State), exec i s = .next t →
    (i ≠ .dispatch → t.cause = t.code) ∧
    (i = .dispatch → t.code ≠ .decryptFailed → t.cause = t.code) ∧
    (i = .dispatch → s.len.toNat ≤ s.params.dbufBytes → s.variant = 1 → t.code = .ok ∨
      (t.code = .decryptFailed ∧ t.cause ∈ [ResultCode.keyNotFound, .invalidParameters, .invalidTrailerLength,
        .keyAgreementFailed, .invalidInput, .authenticationFailed])) ∧
    (t.code = .decryptFailed →
      i = .dispatch ∧ s.len.toNat ≤ s.params.dbufBytes ∧ s.variant = 1 ∧ t.cause ≠ .decryptFailed ∧ t.cause ≠ .ok)

/-- The codes each command's completion can write to RESULT.CODE (spec 60 R351). -/
def Obligations.CodesByCommand : Prop :=
  ∀ (i : Instr) (s t : State), i.wf = true → exec i s = .next t →
    t.code ∈ (match i with
      | .nop | .nonceBuild | .zeroize => [ResultCode.ok]
      | .ccmNew _ _ | .x25519Base _ => [.ok, .invalidParameters]
      | .ccmSeal | .ccmTag | .ctrXor => [.ok, .invalidParameters, .invalidInput]
      | .ccmOpen => [.ok, .invalidParameters, .invalidInput, .authenticationFailed]
      | .x25519 | .deriveKey => [.ok, .invalidParameters, .keyAgreementFailed]
      | .sha256 => [.ok, .invalidInput]
      | .dispatch => [.ok, .invalidInput, .unknownPayloadVariant, .decryptFailed])

/-! Invariants -/

/-- Every step keeps the invariant: legal parameters, the buffers' memory in canonical form and inside the implemented
windows, a legal CCM latch, no DKEY without DKEY_VALID, CMD = w and DONE = 0 while BUSY(w), never MALFORMED_PLAINTEXT,
CAUSE = CODE but for a DISPATCH, OLEN within DBUF, OUT a field element, and the draw of the unwritten buffer bytes taken
(bufDraw < draws). The canonical form of the memory and the draw clause are the model's own (DESIGN CHOICE, log entries
2 and 4). -/
def Obligations.StepKeepsInvariant : Prop :=
  ∀ s t : State, Invariant s → step s = .next t → Invariant t

/-- The invariant holds at reset. -/
def Obligations.ResetMeetsInvariant : Prop := Invariant State.reset

/-! Reset -/

/-- The reset table (spec 10 R65), as the host reads it and for the internal state. -/
def Obligations.ResetTable : Prop :=
  (∀ r : Reg, r ∉ [Reg.id, .version, .param, .ccmcfg] → (∀ o, r ≠ .dbuf o ∧ r ≠ .abuf o) →
    State.reset.readReg r = 0) ∧
    State.reset.readReg .id = 0x47514531 ∧ State.reset.readReg .version = 0x00000100 ∧
    State.reset.readReg .param = 0x00400200 ∧ State.reset.readReg .ccmcfg = 0x00000D08 ∧
    State.reset.seq = .idle ∧ State.reset.irq = false ∧
    State.reset.slot0.key = 0 ∧ State.reset.slot1.key = 0 ∧
    State.reset.latch = { ready := false, ckey := 0, cklen := 0, m := 0, ns := 0 } ∧
    State.reset.dkey = 0 ∧ State.reset.dkeyValid = false

/-- A power-on reset from any state, busy or idle: the reset values, no completion, and every buffer byte the free value
of a new draw (spec 70 R381, R382; log entry 2). That the parameters and the host's side of the bus stay is the
model's choice (DESIGN CHOICE, log entry 6). -/
def Obligations.PowerOnResetsAll : Prop :=
  ∀ (s : State) (rest : List HostEvent), s.host.pending = .powerOn :: rest →
    ∃ t, step s = .next t ∧
      { t with params := Params.default, host := State.reset.host, draws := 1, bufDraw := 0 } = State.reset ∧
      t.params = s.params ∧ t.host = { s.host with pending := rest } ∧
      ∀ a, t.byteAt a = Config.unwrittenByte s.draws a

/-- A soft reset: every piece of state but DBUF and ABUF at its reset value, IRQ_EN = 0 whatever was written; the
buffers keep every byte when idle (spec 70 R383) and become unspecified when busy, with no completion (spec 70
R384). -/
def Obligations.SoftResetResetsAllButBuffers : Prop :=
  ∀ (s : State) (w : Word), w.getLsbD 1 = true →
    let t := s.hostWrite 0x00C w
    { t with params := Params.default, host := State.reset.host, draws := 1, bufDraw := 0, mem := [] } = State.reset ∧
      t.params = s.params ∧ t.host = { s.host with responses := .written :: s.host.responses } ∧
      (s.busy = false → ∀ a, t.byteAt a = s.byteAt a) ∧
      (s.busy = true → ∀ a, t.byteAt a = Config.unwrittenByte s.draws a)

/-! The bus -/

/-- An access that is not a whole word at a multiple of 4 gets a bus error and changes no state of GQE; no other access
in the window does (spec 20 R81, and R82 for the state that does not change). That the machine goes on with the bus
error recorded in host.responses, where R82 has a model record it as a fault of the host access, is the model's choice
(DESIGN CHOICE, log entry 7). -/
def Obligations.BadAccessGetsBusError : Prop :=
  ∀ (s : State) (a : Access) (off : Nat), a.offset s.params = some off →
    ((a.width ≠ .bits32 ∨ off % 4 ≠ 0 ∨ ∃ m d, a.kind = .write m d ∧ m ≠ 0xF) →
      hostAccess a s = .next { s with host := { s.host with responses := .busError :: s.host.responses } }) ∧
    (a.width = .bits32 → off % 4 = 0 →
      (a.kind = .read → hostAccess a s = .next (s.hostRead off)) ∧
      (∀ d, a.kind = .write 0xF d → hostAccess a s = .next (s.hostWrite off d)))

/-- Writes while busy: CTRL and STATUS take effect, read-only registers and reserved offsets are ignored, every other
write is ignored and sets WIGN (spec 20 R92). -/
def Obligations.BusyWrites : Prop :=
  ∀ (s : State) (off : Nat) (w : Word), s.busy = true → off % 4 = 0 →
    s.hostWrite off w =
      State.answer
        (if off = 0x00C then (if w.getLsbD 1 then s.softReset else { s with irqEn := w.getLsbD 0 })
        else if off = 0x014 then
          { s with
            done := s.done && !w.getLsbD 1, err := s.err && !w.getLsbD 2, wign := s.wign && !w.getLsbD 3 }
        else if (regAt s.params off).access = .ro ∨ regAt s.params off = .reserved then s
        else { s with wign := true }) .written

/-- Reads while busy: ID, VERSION, PARAM, CTRL, CMD and STATUS return their values, STATUS bit by bit, key words and
reserved offsets 0, and every other register or buffer byte an unspecified word, a free draw (spec 20 R93). -/
def Obligations.BusyReads : Prop :=
  ∀ (s : State) (off : Nat), s.busy = true → off % 4 = 0 →
    (s.hostRead off).host.responses =
      .data
        (if off = 0x000 then 0x47514531
        else if off = 0x004 then 0x00000100
        else if off = 0x008 then BitVec.ofNat 32 (s.params.abufBytes % 2 ^ 16 * 2 ^ 16 + s.params.dbufBytes % 2 ^ 16)
        else if off = 0x00C then (if s.irqEn then 1 else 0)
        else if off = 0x010 then s.cmd
        else if off = 0x014 then
          BitVec.ofNat 32 (1 + s.done.toNat * 2 + s.err.toNat * 4 + s.wign.toNat * 8 + s.latch.ready.toNat * 16 +
            s.dkeyValid.toNat * 32)
        else if (0x080 ≤ off ∧ off < 0x0C0) ∨ regAt s.params off = .reserved then 0
        else Config.busyRead s.draws) :: s.host.responses

/-- Reads have no side effects: a read changes nothing of GQE's own state, and while idle a second read returns the same
word (spec 20 R88). -/
def Obligations.ReadsHaveNoSideEffects : Prop :=
  ∀ (s : State) (off : Nat),
    (s.hostRead off).core = s.core ∧
      (s.busy = false → ∃ v, (s.hostRead off).host.responses = .data v :: s.host.responses ∧
        ((s.hostRead off).hostRead off).host.responses = .data v :: .data v :: s.host.responses)

/-- STATUS bits 1, 2 and 3 are write-1-to-clear, busy or idle, and nothing else of a STATUS write has an effect (spec 10
R39 to R42). -/
def Obligations.StatusWriteOneToClear : Prop :=
  ∀ (s : State) (w : Word),
    s.hostWrite 0x014 w =
      ({ s with
        done := if w.getLsbD 1 then false else s.done, err := if w.getLsbD 2 then false else s.err
        wign := if w.getLsbD 3 then false else s.wign } : State).answer .written

/-- No host access can tell two states apart that differ only in key bytes: KEY0, KEY1, CKEY and DKEY have no read path
(spec 10 R53, R59, R60, spec 20 R98). -/
def Obligations.HostCannotSeeKeys : Prop :=
  ∀ (s s' t : State) (a : Access), s.withoutKeys = s'.withoutKeys → hostAccess a s = .next t →
    ∃ t', hostAccess a s' = .next t' ∧ t.withoutKeys = t'.withoutKeys ∧ t.host.responses = t'.host.responses

/-- Reserved offsets, the buffer windows beyond DBUF_BYTES and ABUF_BYTES among them, read zero and ignore writes, idle
or busy, and set no status bit (spec 10 R62, spec 20 R85, R86). -/
def Obligations.ReservedOffsetsReadZero : Prop :=
  ∀ (s : State) (off : Nat) (w : Word), s.params.Legal → off % 4 = 0 →
    ((0x068 ≤ off ∧ off < 0x080) ∨ (0x100 ≤ off ∧ off < 0x400) ∨ (0x400 + s.params.dbufBytes ≤ off ∧ off < 0x800) ∨
      (0x800 + s.params.abufBytes ≤ off ∧ off < 0x1000)) →
    s.hostRead off = s.answer (.data 0) ∧ s.hostWrite off w = s.answer .written

/-- Through the bus: a RW register reads back the implemented bits of what the host wrote, the reserved bits zero, and
nothing else changes: no other register or buffer word, no key byte, not the other slot's KEYCTL, not the CCM latch, not
DKEY (spec 10 R45 to R52, R55, R58, R59, R60, R62). CTRL without SRST takes IRQ_EN and nothing else, busy or idle (spec
10 R36). The answers are recorded as log entry 7 says. -/
def Obligations.RegisterWritesReadBack : Prop :=
  ∀ (s : State) (w : Word), s.params.Legal →
    (w.getLsbD 1 = false → s.hostWrite 0x00C w = ({ s with irqEn := w.getLsbD 0 } : State).answer .written) ∧
    (s.busy = false → ∀ r : Reg, r.named s.params → r.mask ≠ 0 →
      let t := s.hostWrite r.offset w
      t.hostRead r.offset = t.answer (.data (w &&& r.mask)) ∧
      (∀ q : Reg, q.named s.params → q ≠ r → t.hostRead q.offset = t.answer (.data (s.readReg q))) ∧
      (∀ n, (t.slot n).key = (s.slot n).key) ∧ (∀ n, r ≠ .keyctl n → t.slot n = s.slot n) ∧
      t.latch = s.latch ∧ t.dkey = s.dkey ∧ t.dkeyValid = s.dkeyValid ∧ t.seq = s.seq ∧ t.params = s.params ∧
      t.host = (s.answer .written).host)

/-- A write of word j of KEYn, while idle, sets key bytes 4j to 4j+3 and no other byte, and keeps KEYCTLn (spec 10 R53,
spec 20 R84). -/
def Obligations.KeyWordWritesFourBytes : Prop :=
  ∀ (s : State) (n : SlotSel) (j : Nat) (w : Word), s.busy = false → j < 8 →
    let t := s.writeReg (.key n j) w
    (t.slot n).bytes = (s.slot n).bytes.take (4 * j) ++ leBytes 4 w.toNat ++ (s.slot n).bytes.drop (4 * j + 4) ∧
      (t.slot n).type = (s.slot n).type ∧ (t.slot n).klen = (s.slot n).klen ∧
      (∀ m, m ≠ n → t.slot m = s.slot m) ∧ t.withoutKeys = s.withoutKeys

/-- Every named register is at its offset of the map, and while the sequencer is idle the bus reads and writes it there:
a read answers the register's value, a write does what the register's rule says, and a write of a read-only register is
ignored (spec 10 R32). The read-only registers show the identification, the parameters, RESULT, OLEN, CCMSTAT, OUT and
DIGEST, STATUS its bits, key words 0 and a buffer word its four bytes (spec 10 R33 to R48, R53, R56, R57, spec 20
R84 to R86). The answers are recorded as log entry 7 says. -/
def Obligations.RegistersAtTheirOffsets : Prop :=
  ∀ (s : State) (r : Reg), s.params.Legal → r.named s.params →
    (regAt s.params r.offset = r ∧ r.offset % 4 = 0 ∧ r.offset < 4096) ∧
    (s.busy = false →
      s.hostRead r.offset = s.answer (.data (s.readReg r)) ∧
      (∀ w, s.hostWrite r.offset w = (s.writeReg r w).answer .written) ∧
      (r ∈ [Reg.id, .version, .param, .result, .olen, .ccmstat] ∨ (0x0C0 ≤ r.offset ∧ r.offset < 0x100) →
        ∀ w, s.hostWrite r.offset w = s.answer .written) ∧
      s.Shows 0x000 0x47514531 ∧ s.Shows 0x004 0x00000100 ∧
      s.Shows 0x008 (s.params.abufBytes * 2 ^ 16 + s.params.dbufBytes) ∧ s.Shows 0x00C s.irqEn.toNat ∧
      s.Shows 0x010 s.cmd.toNat ∧ s.Shows 0x014 s.statusNumber ∧ s.Shows 0x018 s.resultNumber ∧
      s.Shows 0x01C s.olen.toNat ∧ s.Shows 0x02C s.ccmstatNumber ∧
      (∀ k, k < 8 →
        s.Shows (0x0C0 + 4 * k) (fromLE (((unpack 32 s.out).drop (4 * k)).take 4)) ∧
        s.Shows (0x0E0 + 4 * k) (fromLE (((unpack 32 s.digest).drop (4 * k)).take 4)) ∧
        s.Shows (0x080 + 4 * k) 0 ∧ s.Shows (0x0A0 + 4 * k) 0) ∧
      (∀ o, o % 4 = 0 →
        (o < s.params.dbufBytes → s.Shows (0x400 + o) (fromLE (s.bytesAt (0x400 + o) 4))) ∧
        (o < s.params.abufBytes → s.Shows (0x800 + o) (fromLE (s.bytesAt (0x800 + o) 4)))))

/-- The interrupt is a level: asserted after a completion when IRQ_EN = 1, deasserted by the acceptance of the next
command, by clearing DONE, by IRQ_EN = 0 and by a reset (spec 60 R357). -/
def Obligations.InterruptFollowsDone : Prop :=
  ∀ s : State,
    (∀ i t, exec i s = .next t → t.irq = s.irqEn) ∧
    (∀ w, (s.accept w).irq = false) ∧
    (∀ w : Word, w.getLsbD 1 = true → (s.hostWrite 0x014 w).irq = false) ∧
    (∀ w : Word, w.getLsbD 0 = false → (s.hostWrite 0x00C w).irq = false) ∧
    (∀ w : Word, w.getLsbD 1 = true → (s.hostWrite 0x00C w).irq = false) ∧
    s.powerOnReset.irq = false

/-- While a command runs its operands stand still: no step that leaves the sequencer busy changes an operand register or
a buffer byte (spec 20 R91, spec 60 R366). -/
def Obligations.OperandsFixedWhileBusy : Prop :=
  ∀ s t : State, step s = .next t → s.busy = true → t.busy = true →
    t.seq = s.seq ∧ t.operands = s.operands ∧ SameBytes s t

/-- The busy hazard of spec 95 section 4.4 for any command word: a LEN write before the completion is dropped and sets
WIGN, the same write after it takes effect (spec 20 R92, spec 70 R387). -/
def Obligations.LenWriteBeforeCompletionIsDropped : Prop :=
  ∀ (s : State) (w v : Word), s.seq = .idle →
    (∃ t, engineTurn ((s.hostWrite 0x010 w).hostWrite 0x020 v) = .next t ∧ t.len = s.len ∧ t.wign = true) ∧
    (∃ t, engineTurn (s.hostWrite 0x010 w) = .next t ∧ (t.hostWrite 0x020 v).len = v.extractLsb' 0 16 ∧
      (t.hostWrite 0x020 v).wign = s.wign)

/-- The driver's ldbuf, run from an idle machine, leaves its bytes in DBUF[0..LEN) with LEN their number, and changes no
buffer byte past the last word it writes (spec 30 R119). -/
def Obligations.LdbufLoadsItsBytes : Prop :=
  ∀ (s : State) (b : List Byte), s.seq = .idle → s.params.Legal → b.length ≤ s.params.dbufBytes →
    s.host.pending = drvLdbuf s.params b →
    ∃ t, Sys2Proof.core.run (drvLdbuf s.params b).length s = .next t ∧ t.host.pending = [] ∧
      t.len.toNat = b.length ∧ t.dataIn = b ∧
      SameBytesOutside dbufBase ((b.length + 3) / 4 * 4) s t

/-! Housekeeping and the nonce builder -/

/-- NOP completes OK and changes nothing but RESULT, DONE and SEQ (spec 47 R340). -/
def Obligations.NopCompletes : Prop :=
  ∀ (s : State) (w : Word), s.seq = .busy w → exec .nop s = .next (s.ended w .ok .ok)

/-- ZEROIZE clears the key slots, the latch, DKEY, OUT, DIGEST, TAG, NONCE, OLEN and every buffer byte, and keeps
everything else (spec 47 R341). -/
def Obligations.ZeroizeClears : Prop :=
  ∀ (s : State) (w : Word), s.seq = .busy w →
    ∃ t, exec .zeroize s = .next t ∧
      t = ({ s with
        slot0 := { type := .none, klen := 0, key := 0 }, slot1 := { type := .none, klen := 0, key := 0 }
        latch := { ready := false, ckey := 0, cklen := 0, m := 0, ns := 0 }, dkey := 0, dkeyValid := false
        out := 0, digest := 0, tag := 0, nonce := 0, olen := 0, mem := t.mem } : State).ended w .ok .ok ∧
      ∀ a, t.byteAt a = if inBuffer s.params a then 0 else s.byteAt a

/-- NONCE_BUILD writes NONCE = LE_4(PKTID) || LE_4(XNONCE) || LE_4(SENDER) || 00, so that NONCE0 = PKTID, NONCE1 =
XNONCE, NONCE2 = SENDER and NONCE3 = 0, and nothing else but the completion (spec 42 R220, R221). -/
def Obligations.NonceBuildLayout : Prop :=
  ∀ (s : State) (w : Word), s.seq = .busy w →
    ∃ t, exec .nonceBuild s = .next t ∧ t = ({ s with nonce := t.nonce } : State).ended w .ok .ok ∧
      unpack 13 t.nonce =
        leBytes 4 s.pktid.toNat ++ leBytes 4 s.xnonce.toNat ++ leBytes 4 s.sender.toNat ++ [0x00] ∧
      t.readReg (.nonce 0) = s.pktid ∧ t.readReg (.nonce 1) = s.xnonce ∧ t.readReg (.nonce 2) = s.sender ∧
      t.readReg (.nonce 3) = 0

/-! The CCM family -/

/-- CCM_NEW: with legal sizes and a usable key the latch holds the key and the sizes; otherwise it is cleared and the
result is INVALID_PARAMETERS (spec 41 R171, R172). -/
def Obligations.CcmNewFillsOrClearsLatch : Prop :=
  ∀ (s : State) (w : Word), s.seq = .busy w →
    let t := s.tagSize.toNat
    let n := s.nonceSize.toNat
    let valid := 7 ≤ n ∧ n ≤ 13 ∧ t % 2 = 0 ∧ 4 ≤ t ∧ t ≤ 16
    let cleared := ({ s with latch := CcmLatch.reset } : State).ended w .invalidParameters .invalidParameters
    (∀ ks,
      let k := s.slot ks
      let usable := k.type = .sym ∧ (k.klen.toNat = 16 ∨ k.klen.toNat = 24 ∨ k.klen.toNat = 32)
      (valid ∧ usable →
        exec (.ccmNew ks false) s = .next (({ s with
          latch := {
            ready := true, ckey := pack 256 (k.bytes.take k.klen.toNat ++ zeros (32 - k.klen.toNat))
            cklen := k.klen, m := s.tagSize, ns := s.nonceSize } } : State).ended w .ok .ok)) ∧
      (¬(valid ∧ usable) → exec (.ccmNew ks false) s = .next cleared)) ∧
    (valid ∧ s.dkeyValid = true →
      exec (.ccmNew .slot0 true) s = .next (({ s with
        latch := { ready := true, ckey := s.dkey, cklen := 32, m := s.tagSize, ns := s.nonceSize } } :
          State).ended w .ok .ok)) ∧
    (¬(valid ∧ s.dkeyValid = true) → exec (.ccmNew .slot0 true) s = .next cleared)

/-- The common input checks of CCM_SEAL, CCM_OPEN and CCM_TAG, in their order, with what each failure leaves (spec 41
R185). -/
def Obligations.CcmInputChecksInOrder : Prop :=
  ∀ (s : State) (w : Word), s.seq = .busy w →
    let stops (c : ResultCode) :=
      exec .ccmSeal s = .next (({ s with olen := 0 } : State).ended w c c) ∧
        exec .ccmOpen s = .next (({ s with olen := 0 } : State).ended w c c) ∧
        exec .ccmTag s = .next (s.ended w c c)
    (s.latch.ready = false → stops .invalidParameters) ∧
    (s.latch.ready = true → s.len.toNat > s.params.dbufBytes ∨ s.alen.toNat > s.params.abufBytes →
      stops .invalidInput) ∧
    (s.latch.ready = true → s.len.toNat ≤ s.params.dbufBytes → s.alen.toNat ≤ s.params.abufBytes → s.len = 0 →
      stops .invalidInput)

/-- CCM_SEAL on operands that pass its checks: DBUF[0..LEN) becomes its CTR transform, TAG the CBC-MAC tag of the
plaintext with the associated data, padded with zeros, OLEN = LEN, and nothing else changes (spec 41 R182, R186). -/
def Obligations.CcmSealEncryptsInPlace : Prop :=
  ∀ (s : State) (w : Word), s.seq = .busy w → s.latch.ready = true → s.latch.Legal → s.len ≠ 0 →
    s.len.toNat ≤ s.params.dbufBytes → s.alen.toNat ≤ s.params.abufBytes →
    let k := (unpack 32 s.latch.ckey).take s.latch.cklen.toNat
    let nonce := (unpack 13 s.nonce).take s.latch.ns.toNat
    let m := s.latch.m.toNat
    let p := s.dbuf s.len.toNat
    let a := s.abuf s.alen.toNat
    ∃ t, exec .ccmSeal s = .next t ∧
      t = ({ s with mem := t.mem, tag := t.tag, olen := s.len } : State).ended w .ok .ok ∧
      t.dbuf s.len.toNat = ctr k nonce p ∧ SameBytesOutside dbufBase s.len.toNat s t ∧
      (unpack 16 t.tag).take m = cbcMac k nonce m a p ∧ (unpack 16 t.tag).drop m = zeros (16 - m)

/-- CCM_OPEN on operands that pass its checks: with P the CTR transform of DBUF[0..LEN), when TAG[0..M) is the CBC-MAC
tag of P then DBUF[0..LEN) becomes P and OLEN = LEN; when it is not the result is AUTHENTICATION_FAILED with OLEN = 0
and every buffer byte and TAG as before (spec 41 R183, R187). -/
def Obligations.CcmOpenAuthenticates : Prop :=
  ∀ (s : State) (w : Word), s.seq = .busy w → s.latch.ready = true → s.latch.Legal → s.len ≠ 0 →
    s.len.toNat ≤ s.params.dbufBytes → s.alen.toNat ≤ s.params.abufBytes →
    let k := (unpack 32 s.latch.ckey).take s.latch.cklen.toNat
    let nonce := (unpack 13 s.nonce).take s.latch.ns.toNat
    let m := s.latch.m.toNat
    let p := ctr k nonce (s.dbuf s.len.toNat)
    let expected := cbcMac k nonce m (s.abuf s.alen.toNat) p
    (expected = (unpack 16 s.tag).take m →
      ∃ t, exec .ccmOpen s = .next t ∧ t = ({ s with mem := t.mem, olen := s.len } : State).ended w .ok .ok ∧
        t.dbuf s.len.toNat = p ∧ SameBytesOutside dbufBase s.len.toNat s t) ∧
    (expected ≠ (unpack 16 s.tag).take m →
      exec .ccmOpen s =
        .next (({ s with olen := 0 } : State).ended w .authenticationFailed .authenticationFailed))

/-- CCM_TAG on operands that pass its checks writes TAG as CCM_SEAL would, and leaves DBUF and OLEN (spec 41 R188). -/
def Obligations.CcmTagWritesTag : Prop :=
  ∀ (s : State) (w : Word), s.seq = .busy w → s.latch.ready = true → s.latch.Legal → s.len ≠ 0 →
    s.len.toNat ≤ s.params.dbufBytes → s.alen.toNat ≤ s.params.abufBytes →
    let k := (unpack 32 s.latch.ckey).take s.latch.cklen.toNat
    let nonce := (unpack 13 s.nonce).take s.latch.ns.toNat
    let m := s.latch.m.toNat
    ∃ t, exec .ccmTag s = .next t ∧ t = ({ s with tag := t.tag } : State).ended w .ok .ok ∧
      (unpack 16 t.tag).take m = cbcMac k nonce m (s.abuf s.alen.toNat) (s.dbuf s.len.toNat) ∧
      (unpack 16 t.tag).drop m = zeros (16 - m) ∧
      ∃ u, exec .ccmSeal s = .next u ∧ u.tag = t.tag

/-- CTR_XOR: its two checks in order, and otherwise DBUF[0..LEN) becomes its CTR transform and OLEN = LEN, with LEN = 0
legal; no tag, no associated data (spec 41 R189). -/
def Obligations.CtrXorInPlace : Prop :=
  ∀ (s : State) (w : Word), s.seq = .busy w →
    let k := (unpack 32 s.latch.ckey).take s.latch.cklen.toNat
    let nonce := (unpack 13 s.nonce).take s.latch.ns.toNat
    (s.latch.ready = false →
      exec .ctrXor s = .next (({ s with olen := 0 } : State).ended w .invalidParameters .invalidParameters)) ∧
    (s.latch.ready = true → s.len.toNat > s.params.dbufBytes →
      exec .ctrXor s = .next (({ s with olen := 0 } : State).ended w .invalidInput .invalidInput)) ∧
    (s.latch.ready = true → s.latch.Legal → s.len.toNat ≤ s.params.dbufBytes →
      ∃ t, exec .ctrXor s = .next t ∧ t = ({ s with mem := t.mem, olen := s.len } : State).ended w .ok .ok ∧
        t.dbuf s.len.toNat = ctr k nonce (s.dbuf s.len.toNat) ∧ SameBytesOutside dbufBase s.len.toNat s t)

/-- Sealing and then opening with the same latch, nonce and associated data restores every buffer byte and reports OK
(spec 41 R181 to R183, R186, R187; spec 95 section 1.4, round-trip). -/
def Obligations.SealThenOpenRestores : Prop :=
  ∀ (s t : State) (w' : Word), Invariant s → exec .ccmSeal s = .next t → t.code = .ok →
    ∃ u, exec .ccmOpen (t.accept w') = .next u ∧ u.code = .ok ∧ u.olen = s.len ∧ SameBytes s u

/-- CTR_XOR applied twice with the same latch and nonce restores every buffer byte (spec 41 R181, R189). -/
def Obligations.CtrXorTwiceRestores : Prop :=
  ∀ (s t : State) (w' : Word), Invariant s → exec .ctrXor s = .next t → t.code = .ok →
    ∃ u, exec .ctrXor (t.accept w') = .next u ∧ u.code = .ok ∧ SameBytes s u

/-- The CTR transform byte by byte: byte j is the data byte XOR byte j mod 16 of E(K, A_(j div 16)), with the counter
from 0 (spec 41 R180, R181, R191). -/
def Obligations.CtrByteByByte : Prop :=
  ∀ (k nonce d : List Byte) (j : Nat), aesKeyLength k.length = true → j < d.length →
    (ctr k nonce d).getD j 0 =
      d.getD j 0 ^^^ (aes k (BitVec.ofNat 8 (15 - nonce.length - 1) :: nonce ++
        beBytes (15 - nonce.length) (j / 16))).getD (j % 16) 0

/-- The CBC-MAC tag of the plaintext p with the associated data (spec 41 R175 to R178): the fields of B0's flags byte
(0x19 without associated data and 0x59 with it for the protocol's sizes), B0 whole, and the chain X, from E(K, B0) on
through every 16-byte block of the padded length and associated data, when there is any, and then of the padded
plaintext, cut to M bytes. -/
def Obligations.TagIsCbcMacChain : Prop :=
  ∀ (k nonce aad p : List Byte) (m : Nat), validParams m nonce.length = true →
    let flags := b0Flags m nonce aad
    let b0 := [flags] ++ nonce ++ beBytes (15 - nonce.length) p.length
    let folded := (if aad = [] then [] else pad16 (beBytes 2 aad.length ++ aad)) ++ pad16 p
    flags.getLsbD 7 = false ∧ flags.getLsbD 6 = decide (aad ≠ []) ∧
      (flags.extractLsb' 3 3).toNat = (m - 2) / 2 ∧ (flags.extractLsb' 0 3).toNat = 15 - nonce.length - 1 ∧
      (m = 8 → nonce.length = 13 → flags = if aad = [] then 0x19 else 0x59) ∧
      b0Block m nonce aad p = b0 ∧ b0.length = 16 ∧
      ∃ chain : Nat → List Byte, chain 0 = aes k b0 ∧
        (∀ i, i < folded.length / 16 →
          chain (i + 1) = aes k (xorBytes (chain i) ((folded.drop (16 * i)).take 16))) ∧
        cbcMac k nonce m aad p = (chain (folded.length / 16)).take m

/-- The S-box table is the affine image of the inverse in GF(2^8) (spec 40 R143): every byte a has a b, zero for zero and
with a * b = 1 otherwise, such that SBOX[a] is b's affine image with the constant 0x63. -/
def Obligations.SboxIsAffineInverse : Prop :=
  ∀ a : Byte, ∃ b : Byte,
    (if a = 0 then b = 0 else
      (List.range 8).foldl (fun acc i => if b.getLsbD i then acc ^^^ (Nat.repeat xtime i a) else acc) 0#8 = 1) ∧
    ∀ i < 8, (sbox a).getLsbD i =
      (b.getLsbD i ^^ b.getLsbD ((i + 4) % 8) ^^ b.getLsbD ((i + 5) % 8) ^^ b.getLsbD ((i + 6) % 8) ^^
        b.getLsbD ((i + 7) % 8) ^^ (0x63#8).getLsbD i)

/-! The key family -/

/-- X25519_BASE: with slot KS a 32-byte private key OUT is its public key, else INVALID_PARAMETERS with OUT unchanged
(spec 43 R237, R240). -/
def Obligations.X25519BaseWritesPublicKey : Prop :=
  ∀ (s : State) (w : Word) (ks : SlotSel), s.seq = .busy w →
    ((s.slot ks).type = .priv ∧ (s.slot ks).klen = 32 →
      ∃ t, exec (.x25519Base ks) s = .next t ∧ t = ({ s with out := t.out } : State).ended w .ok .ok ∧
        unpack 32 t.out = x25519 (s.slot ks).bytes (leBytes 32 9)) ∧
    (¬((s.slot ks).type = .priv ∧ (s.slot ks).klen = 32) →
      exec (.x25519Base ks) s = .next (s.ended w .invalidParameters .invalidParameters))

/-- X25519: with slot 0 private and slot 1 public, 32 bytes each, OUT is the product, and an all-zero product reports
KEY_AGREEMENT_FAILED with OUT written; else INVALID_PARAMETERS with OUT unchanged (spec 43 R241). -/
def Obligations.X25519WritesProduct : Prop :=
  ∀ (s : State) (w : Word), s.seq = .busy w →
    let usable := s.slot0.type = .priv ∧ s.slot0.klen = 32 ∧ s.slot1.type = .pub ∧ s.slot1.klen = 32
    let p := x25519 s.slot0.bytes s.slot1.bytes
    (usable → ∃ t, exec .x25519 s = .next t ∧ unpack 32 t.out = p ∧
      (p ≠ zeros 32 → t = ({ s with out := t.out } : State).ended w .ok .ok) ∧
      (p = zeros 32 → t = ({ s with out := 0 } : State).ended w .keyAgreementFailed .keyAgreementFailed)) ∧
    (¬usable → exec .x25519 s = .next (s.ended w .invalidParameters .invalidParameters))

/-- DERIVE_KEY: DKEY is the SHA-256 of the shared secret with the peer's public key, taken from slot 1 or derived from
its private key; every failure clears DKEY and DKEY_VALID (spec 45 R290, R291, R293). -/
def Obligations.DeriveKeyWritesDkey : Prop :=
  ∀ (s : State) (w : Word), s.seq = .busy w →
    let usable := s.slot0.type = .priv ∧ s.slot0.klen = 32 ∧ (s.slot1.type = .pub ∨ s.slot1.type = .priv) ∧
      s.slot1.klen = 32
    let peer := if s.slot1.type = .pub then s.slot1.bytes else x25519 s.slot1.bytes (leBytes 32 9)
    let secret := x25519 s.slot0.bytes peer
    let cleared (c : ResultCode) := ({ s with dkey := 0, dkeyValid := false } : State).ended w c c
    (usable ∧ secret ≠ zeros 32 →
      ∃ t, exec .deriveKey s = .next t ∧
        t = ({ s with dkey := t.dkey, dkeyValid := true } : State).ended w .ok .ok ∧
        unpack 32 t.dkey = sha256 secret) ∧
    (usable ∧ secret = zeros 32 → exec .deriveKey s = .next (cleared .keyAgreementFailed)) ∧
    (¬usable → exec .deriveKey s = .next (cleared .invalidParameters))

/-- A peer held as a private key derives the same key as the same peer held as its public key (spec 45 R290). -/
def Obligations.PeerKeyFormsAgree : Prop :=
  ∀ (s : State) (b : KeySlot), b.type = .priv → b.klen = 32 →
    ∃ t t', exec .deriveKey { s with slot1 := b } = .next t ∧
      exec .deriveKey
        { s with slot1 := { type := .pub, klen := 32, key := pack 256 (x25519 b.bytes (leBytes 32 9)) } } = .next t' ∧
      t.dkey = t'.dkey ∧ t.dkeyValid = t'.dkeyValid ∧ t.code = t'.code

/-- SHA256: DIGEST is the digest of DBUF[0..LEN), with LEN = 0 legal; LEN > DBUF_BYTES is INVALID_INPUT with DIGEST
unchanged (spec 44 R267). -/
def Obligations.Sha256WritesDigest : Prop :=
  ∀ (s : State) (w : Word), s.seq = .busy w →
    (s.len.toNat ≤ s.params.dbufBytes →
      ∃ t, exec .sha256 s = .next t ∧ t = ({ s with digest := t.digest } : State).ended w .ok .ok ∧
        unpack 32 t.digest = sha256 (s.dbuf s.len.toNat)) ∧
    (s.len.toNat > s.params.dbufBytes → exec .sha256 s = .next (s.ended w .invalidInput .invalidInput))

/-- Every decoded scalar has bits 0 to 2 clear, bit 254 set and bit 255 clear, and its other bits are the string's (spec
43 R231). -/
def Obligations.ClampedScalarBits : Prop :=
  ∀ k : List Byte, k.length = 32 → ∀ i : Nat,
    (decodeScalar k).testBit i =
      if i < 3 then false else if i = 254 then true else if i < 254 then (fromLE k).testBit i else false

/-- Repeated squaring computes the power of the ladder's final inversion: fpow b bits e is b^e modulo p (spec 43 R230,
R234). -/
def Obligations.FieldPowerIsPower : Prop :=
  ∀ (bits b e : Nat), e < 2 ^ bits → fpow b bits e % fieldPrime = b ^ e % fieldPrime

/-- The point u = 0, in its canonical encoding and as p, is refused: X25519 writes an all-zero OUT and DERIVE_KEY clears
DKEY, each with KEY_AGREEMENT_FAILED, for every private key (spec 43 R238, spec 45 R292). -/
def Obligations.ZeroPointIsRefused : Prop :=
  ∀ (s : State) (w : Word), s.seq = .busy w → s.slot0.type = .priv → s.slot0.klen = 32 → s.slot1.type = .pub →
    s.slot1.klen = 32 → s.slot1.key = 0 ∨ s.slot1.key = BitVec.ofNat 256 (2 ^ 255 - 19) →
    exec .x25519 s = .next (({ s with out := 0 } : State).ended w .keyAgreementFailed .keyAgreementFailed) ∧
      exec .deriveKey s =
        .next (({ s with dkey := 0, dkeyValid := false } : State).ended w .keyAgreementFailed .keyAgreementFailed)

/-! The dispatcher -/

/-- DISPATCH outside the encrypted paths: LEN > DBUF_BYTES is INVALID_INPUT whatever the variant, Decoded returns the
payload as it is with OLEN = LEN, and variants 2 and 3 are UNKNOWN_PAYLOAD_VARIANT (spec 46 R312 to R314). -/
def Obligations.DispatchByVariant : Prop :=
  ∀ (s : State) (w : Word), s.seq = .busy w →
    (s.len.toNat > s.params.dbufBytes →
      exec .dispatch s = .next (({ s with olen := 0 } : State).ended w .invalidInput .invalidInput)) ∧
    (s.len.toNat ≤ s.params.dbufBytes → s.variant = 0 →
      exec .dispatch s = .next (({ s with olen := s.len } : State).ended w .ok .ok)) ∧
    (s.len.toNat ≤ s.params.dbufBytes → s.variant = 2 ∨ s.variant = 3 →
      exec .dispatch s =
        .next (({ s with olen := 0 } : State).ended w .unknownPayloadVariant .unknownPayloadVariant))

/-- DISPATCH on the channel path: the two key checks in order, and otherwise DBUF[0..LEN) becomes its CTR transform under
the channel key with the nonce LE_4(PKTID) || 00 00 00 00 || LE_4(SENDER) || 00, with no tag (spec 46 R315, R322). -/
def Obligations.DispatchChannelPath : Prop :=
  ∀ (s : State) (w : Word), s.seq = .busy w → s.len.toNat ≤ s.params.dbufBytes → s.variant = 1 → s.route = false →
    let fails (c : ResultCode) := ({ s with olen := 0 } : State).ended w .decryptFailed c
    let klen := s.slot0.klen.toNat
    let legal := klen = 16 ∨ klen = 24 ∨ klen = 32
    let nonce := leBytes 4 s.pktid.toNat ++ zeros 4 ++ leBytes 4 s.sender.toNat ++ [0x00]
    (s.slot0.type ≠ .sym → exec .dispatch s = .next (fails .keyNotFound)) ∧
    (s.slot0.type = .sym → ¬legal → exec .dispatch s = .next (fails .invalidParameters)) ∧
    (s.slot0.type = .sym → legal →
      ∃ t, exec .dispatch s = .next t ∧ t = ({ s with mem := t.mem, olen := s.len } : State).ended w .ok .ok ∧
        t.dbuf s.len.toNat = ctr (s.slot0.bytes.take klen) nonce (s.dbuf s.len.toNat) ∧
        SameBytesOutside dbufBase s.len.toNat s t)

/-- DISPATCH on the direct path: the checks in the document's order, each with its CAUSE, and on success the plaintext in
DBUF[0..LEN-12) with the trailer unchanged (spec 46 R316 to R318, R320). -/
def Obligations.DispatchDirectPath : Prop :=
  ∀ (s : State) (w : Word), s.seq = .busy w → s.len.toNat ≤ s.params.dbufBytes → s.variant = 1 → s.route = true →
    let fails (c : ResultCode) := ({ s with olen := 0 } : State).ended w .decryptFailed c
    let n := s.len.toNat
    let d := s.dbuf n
    let c := d.take (n - 12)
    let tag := (d.drop (n - 12)).take 8
    let x := d.drop (n - 4)
    let peer := if s.slot1.type = .pub then s.slot1.bytes else x25519 s.slot1.bytes (leBytes 32 9)
    let secret := x25519 s.slot0.bytes peer
    let key := sha256 secret
    let nonce := leBytes 4 s.pktid.toNat ++ x ++ leBytes 4 s.sender.toNat ++ [0x00]
    let p := ctr key nonce c
    if n < 12 then exec .dispatch s = .next (fails .invalidTrailerLength)
    else if s.slot0.type ≠ .priv then exec .dispatch s = .next (fails .keyNotFound)
    else if s.slot0.klen ≠ 32 then exec .dispatch s = .next (fails .invalidParameters)
    else if s.slot1.type ≠ .pub ∧ s.slot1.type ≠ .priv then exec .dispatch s = .next (fails .keyNotFound)
    else if s.slot1.klen ≠ 32 then exec .dispatch s = .next (fails .invalidParameters)
    else if secret = zeros 32 then exec .dispatch s = .next (fails .keyAgreementFailed)
    else if n = 12 then exec .dispatch s = .next (fails .invalidInput)
    else if cbcMac key nonce 8 [] p ≠ tag then exec .dispatch s = .next (fails .authenticationFailed)
    else
      ∃ t, exec .dispatch s = .next t ∧
        t = ({ s with mem := t.mem, olen := BitVec.ofNat 16 (n - 12) } : State).ended w .ok .ok ∧
        t.dbuf (n - 12) = p ∧ SameBytesOutside dbufBase (n - 12) s t

/-- DISPATCH writes nothing but DBUF[0..OLEN), OLEN and the completion, and on a failure no buffer byte (spec 46 R319,
R320). -/
def Obligations.DispatchKeepsTheRest : Prop :=
  ∀ (s t : State) (w : Word), s.seq = .busy w → exec .dispatch s = .next t →
    t = ({ s with mem := t.mem, olen := t.olen } : State).ended w t.code t.cause ∧
      SameBytesOutside dbufBase t.olen.toNat s t ∧ (t.code ≠ .ok → SameBytes s t ∧ t.olen = 0)

/-! Algorithm vectors -/

/-- E, SHA256 and X25519 on one standard vector each (spec 95 sections 2.1 to 2.3). -/
def Obligations.StandardVectors : Prop :=
  aes (beBytes 16 0x000102030405060708090a0b0c0d0e0f) (beBytes 16 0x00112233445566778899aabbccddeeff) =
      beBytes 16 0x69c4e0d86a7b0430d8cdb78070b4c55a ∧
    sha256 [0x61, 0x62, 0x63] =
      beBytes 32 0xba7816bf8f01cfea414140de5dae2223b00361a396177a9cb410ff61f20015ad ∧
    x25519 (beBytes 32 0x77076d0a7318a57d3c16c17251b26645df4c2f87ebc0992ab177fba51db92c2a)
        (beBytes 32 0xde9edb7d7b7dc1b4d35b61c2ece435373f8343c85b78674dadfc7e146f882b4f) =
      beBytes 32 0x4a5d9d5ba4ce2de1728e3bf480350f25e07e21c947d19e3376f09b3c1e161742
end

