-- ==== Sys2Proof/Laws/State.lean ====
section
/-! SUPPORT. The small lemmas of the named state updates: what each field is after each update, true by definition,
so that no later proof unfolds a record update. -/

namespace Sys2Proof.Machine

open Sys2Proof

section updates

variable (s : State)

@[simp] theorem State.completeWith_eq (c : ResultCode) : s.completeWith c = s.complete c c := rfl
@[simp] theorem State.illegalCommand_eq : s.illegalCommand = s.complete .illegalCommand .illegalCommand := rfl
@[simp] theorem State.writeDbuf_eq (b : List Byte) : s.writeDbuf b = s.writeMem dbufBase b := rfl

/-! complete -/

@[simp] theorem State.complete_params (c d : ResultCode) : (s.complete c d).params = s.params := rfl
@[simp] theorem State.complete_host (c d : ResultCode) : (s.complete c d).host = s.host := rfl
@[simp] theorem State.complete_draws (c d : ResultCode) : (s.complete c d).draws = s.draws := rfl
@[simp] theorem State.complete_bufDraw (c d : ResultCode) : (s.complete c d).bufDraw = s.bufDraw := rfl
@[simp] theorem State.complete_seq (c d : ResultCode) : (s.complete c d).seq = .idle := rfl
@[simp] theorem State.complete_irqEn (c d : ResultCode) : (s.complete c d).irqEn = s.irqEn := rfl
@[simp] theorem State.complete_cmd (c d : ResultCode) : (s.complete c d).cmd = s.cmd := rfl
@[simp] theorem State.complete_done (c d : ResultCode) : (s.complete c d).done = true := rfl
@[simp] theorem State.complete_err (c d : ResultCode) : (s.complete c d).err = errAfter s.err c := rfl
@[simp] theorem State.complete_wign (c d : ResultCode) : (s.complete c d).wign = s.wign := rfl
@[simp] theorem State.complete_code (c d : ResultCode) : (s.complete c d).code = c := rfl
@[simp] theorem State.complete_cause (c d : ResultCode) : (s.complete c d).cause = d := rfl
@[simp] theorem State.complete_resultOp (c d : ResultCode) : (s.complete c d).resultOp = s.commandWord.extractLsb' 0 8 := rfl
@[simp] theorem State.complete_olen (c d : ResultCode) : (s.complete c d).olen = s.olen := rfl
@[simp] theorem State.complete_len (c d : ResultCode) : (s.complete c d).len = s.len := rfl
@[simp] theorem State.complete_alen (c d : ResultCode) : (s.complete c d).alen = s.alen := rfl
@[simp] theorem State.complete_tagSize (c d : ResultCode) : (s.complete c d).tagSize = s.tagSize := rfl
@[simp] theorem State.complete_nonceSize (c d : ResultCode) : (s.complete c d).nonceSize = s.nonceSize := rfl
@[simp] theorem State.complete_pktid (c d : ResultCode) : (s.complete c d).pktid = s.pktid := rfl
@[simp] theorem State.complete_sender (c d : ResultCode) : (s.complete c d).sender = s.sender := rfl
@[simp] theorem State.complete_xnonce (c d : ResultCode) : (s.complete c d).xnonce = s.xnonce := rfl
@[simp] theorem State.complete_variant (c d : ResultCode) : (s.complete c d).variant = s.variant := rfl
@[simp] theorem State.complete_route (c d : ResultCode) : (s.complete c d).route = s.route := rfl
@[simp] theorem State.complete_nonce (c d : ResultCode) : (s.complete c d).nonce = s.nonce := rfl
@[simp] theorem State.complete_tag (c d : ResultCode) : (s.complete c d).tag = s.tag := rfl
@[simp] theorem State.complete_slot0 (c d : ResultCode) : (s.complete c d).slot0 = s.slot0 := rfl
@[simp] theorem State.complete_slot1 (c d : ResultCode) : (s.complete c d).slot1 = s.slot1 := rfl
@[simp] theorem State.complete_out (c d : ResultCode) : (s.complete c d).out = s.out := rfl
@[simp] theorem State.complete_digest (c d : ResultCode) : (s.complete c d).digest = s.digest := rfl
@[simp] theorem State.complete_latch (c d : ResultCode) : (s.complete c d).latch = s.latch := rfl
@[simp] theorem State.complete_dkey (c d : ResultCode) : (s.complete c d).dkey = s.dkey := rfl
@[simp] theorem State.complete_dkeyValid (c d : ResultCode) : (s.complete c d).dkeyValid = s.dkeyValid := rfl
@[simp] theorem State.complete_mem (c d : ResultCode) : (s.complete c d).mem = s.mem := rfl
@[simp] theorem State.complete_byteAt (c d : ResultCode) (x : Nat) : (s.complete c d).byteAt x = s.byteAt x := rfl
@[simp] theorem State.complete_bytesAt (c d : ResultCode) (x k : Nat) : (s.complete c d).bytesAt x k = s.bytesAt x k := rfl

/-! accept -/

@[simp] theorem State.accept_params (w : Word) : (s.accept w).params = s.params := rfl
@[simp] theorem State.accept_host (w : Word) : (s.accept w).host = s.host := rfl
@[simp] theorem State.accept_draws (w : Word) : (s.accept w).draws = s.draws := rfl
@[simp] theorem State.accept_bufDraw (w : Word) : (s.accept w).bufDraw = s.bufDraw := rfl
@[simp] theorem State.accept_seq (w : Word) : (s.accept w).seq = .busy w := rfl
@[simp] theorem State.accept_irqEn (w : Word) : (s.accept w).irqEn = s.irqEn := rfl
@[simp] theorem State.accept_cmd (w : Word) : (s.accept w).cmd = w := rfl
@[simp] theorem State.accept_done (w : Word) : (s.accept w).done = false := rfl
@[simp] theorem State.accept_err (w : Word) : (s.accept w).err = s.err := rfl
@[simp] theorem State.accept_wign (w : Word) : (s.accept w).wign = s.wign := rfl
@[simp] theorem State.accept_code (w : Word) : (s.accept w).code = s.code := rfl
@[simp] theorem State.accept_cause (w : Word) : (s.accept w).cause = s.cause := rfl
@[simp] theorem State.accept_resultOp (w : Word) : (s.accept w).resultOp = s.resultOp := rfl
@[simp] theorem State.accept_olen (w : Word) : (s.accept w).olen = s.olen := rfl
@[simp] theorem State.accept_len (w : Word) : (s.accept w).len = s.len := rfl
@[simp] theorem State.accept_alen (w : Word) : (s.accept w).alen = s.alen := rfl
@[simp] theorem State.accept_tagSize (w : Word) : (s.accept w).tagSize = s.tagSize := rfl
@[simp] theorem State.accept_nonceSize (w : Word) : (s.accept w).nonceSize = s.nonceSize := rfl
@[simp] theorem State.accept_pktid (w : Word) : (s.accept w).pktid = s.pktid := rfl
@[simp] theorem State.accept_sender (w : Word) : (s.accept w).sender = s.sender := rfl
@[simp] theorem State.accept_xnonce (w : Word) : (s.accept w).xnonce = s.xnonce := rfl
@[simp] theorem State.accept_variant (w : Word) : (s.accept w).variant = s.variant := rfl
@[simp] theorem State.accept_route (w : Word) : (s.accept w).route = s.route := rfl
@[simp] theorem State.accept_nonce (w : Word) : (s.accept w).nonce = s.nonce := rfl
@[simp] theorem State.accept_tag (w : Word) : (s.accept w).tag = s.tag := rfl
@[simp] theorem State.accept_slot0 (w : Word) : (s.accept w).slot0 = s.slot0 := rfl
@[simp] theorem State.accept_slot1 (w : Word) : (s.accept w).slot1 = s.slot1 := rfl
@[simp] theorem State.accept_out (w : Word) : (s.accept w).out = s.out := rfl
@[simp] theorem State.accept_digest (w : Word) : (s.accept w).digest = s.digest := rfl
@[simp] theorem State.accept_latch (w : Word) : (s.accept w).latch = s.latch := rfl
@[simp] theorem State.accept_dkey (w : Word) : (s.accept w).dkey = s.dkey := rfl
@[simp] theorem State.accept_dkeyValid (w : Word) : (s.accept w).dkeyValid = s.dkeyValid := rfl
@[simp] theorem State.accept_mem (w : Word) : (s.accept w).mem = s.mem := rfl
@[simp] theorem State.accept_byteAt (w : Word) (x : Nat) : (s.accept w).byteAt x = s.byteAt x := rfl
@[simp] theorem State.accept_bytesAt (w : Word) (x k : Nat) : (s.accept w).bytesAt x k = s.bytesAt x k := rfl

/-! withOlen -/

@[simp] theorem State.withOlen_params (n : BitVec 16) : (s.withOlen n).params = s.params := rfl
@[simp] theorem State.withOlen_host (n : BitVec 16) : (s.withOlen n).host = s.host := rfl
@[simp] theorem State.withOlen_draws (n : BitVec 16) : (s.withOlen n).draws = s.draws := rfl
@[simp] theorem State.withOlen_bufDraw (n : BitVec 16) : (s.withOlen n).bufDraw = s.bufDraw := rfl
@[simp] theorem State.withOlen_seq (n : BitVec 16) : (s.withOlen n).seq = s.seq := rfl
@[simp] theorem State.withOlen_irqEn (n : BitVec 16) : (s.withOlen n).irqEn = s.irqEn := rfl
@[simp] theorem State.withOlen_cmd (n : BitVec 16) : (s.withOlen n).cmd = s.cmd := rfl
@[simp] theorem State.withOlen_done (n : BitVec 16) : (s.withOlen n).done = s.done := rfl
@[simp] theorem State.withOlen_err (n : BitVec 16) : (s.withOlen n).err = s.err := rfl
@[simp] theorem State.withOlen_wign (n : BitVec 16) : (s.withOlen n).wign = s.wign := rfl
@[simp] theorem State.withOlen_code (n : BitVec 16) : (s.withOlen n).code = s.code := rfl
@[simp] theorem State.withOlen_cause (n : BitVec 16) : (s.withOlen n).cause = s.cause := rfl
@[simp] theorem State.withOlen_resultOp (n : BitVec 16) : (s.withOlen n).resultOp = s.resultOp := rfl
@[simp] theorem State.withOlen_olen (n : BitVec 16) : (s.withOlen n).olen = n := rfl
@[simp] theorem State.withOlen_len (n : BitVec 16) : (s.withOlen n).len = s.len := rfl
@[simp] theorem State.withOlen_alen (n : BitVec 16) : (s.withOlen n).alen = s.alen := rfl
@[simp] theorem State.withOlen_tagSize (n : BitVec 16) : (s.withOlen n).tagSize = s.tagSize := rfl
@[simp] theorem State.withOlen_nonceSize (n : BitVec 16) : (s.withOlen n).nonceSize = s.nonceSize := rfl
@[simp] theorem State.withOlen_pktid (n : BitVec 16) : (s.withOlen n).pktid = s.pktid := rfl
@[simp] theorem State.withOlen_sender (n : BitVec 16) : (s.withOlen n).sender = s.sender := rfl
@[simp] theorem State.withOlen_xnonce (n : BitVec 16) : (s.withOlen n).xnonce = s.xnonce := rfl
@[simp] theorem State.withOlen_variant (n : BitVec 16) : (s.withOlen n).variant = s.variant := rfl
@[simp] theorem State.withOlen_route (n : BitVec 16) : (s.withOlen n).route = s.route := rfl
@[simp] theorem State.withOlen_nonce (n : BitVec 16) : (s.withOlen n).nonce = s.nonce := rfl
@[simp] theorem State.withOlen_tag (n : BitVec 16) : (s.withOlen n).tag = s.tag := rfl
@[simp] theorem State.withOlen_slot0 (n : BitVec 16) : (s.withOlen n).slot0 = s.slot0 := rfl
@[simp] theorem State.withOlen_slot1 (n : BitVec 16) : (s.withOlen n).slot1 = s.slot1 := rfl
@[simp] theorem State.withOlen_out (n : BitVec 16) : (s.withOlen n).out = s.out := rfl
@[simp] theorem State.withOlen_digest (n : BitVec 16) : (s.withOlen n).digest = s.digest := rfl
@[simp] theorem State.withOlen_latch (n : BitVec 16) : (s.withOlen n).latch = s.latch := rfl
@[simp] theorem State.withOlen_dkey (n : BitVec 16) : (s.withOlen n).dkey = s.dkey := rfl
@[simp] theorem State.withOlen_dkeyValid (n : BitVec 16) : (s.withOlen n).dkeyValid = s.dkeyValid := rfl
@[simp] theorem State.withOlen_mem (n : BitVec 16) : (s.withOlen n).mem = s.mem := rfl
@[simp] theorem State.withOlen_byteAt (n : BitVec 16) (x : Nat) : (s.withOlen n).byteAt x = s.byteAt x := rfl
@[simp] theorem State.withOlen_bytesAt (n : BitVec 16) (x k : Nat) : (s.withOlen n).bytesAt x k = s.bytesAt x k := rfl
@[simp] theorem State.withOlen_commandWord (n : BitVec 16) : (s.withOlen n).commandWord = s.commandWord := rfl
@[simp] theorem State.withOlen_busy (n : BitVec 16) : (s.withOlen n).busy = s.busy := rfl

/-! withTag -/

@[simp] theorem State.withTag_params (b : List Byte) : (s.withTag b).params = s.params := rfl
@[simp] theorem State.withTag_host (b : List Byte) : (s.withTag b).host = s.host := rfl
@[simp] theorem State.withTag_draws (b : List Byte) : (s.withTag b).draws = s.draws := rfl
@[simp] theorem State.withTag_bufDraw (b : List Byte) : (s.withTag b).bufDraw = s.bufDraw := rfl
@[simp] theorem State.withTag_seq (b : List Byte) : (s.withTag b).seq = s.seq := rfl
@[simp] theorem State.withTag_irqEn (b : List Byte) : (s.withTag b).irqEn = s.irqEn := rfl
@[simp] theorem State.withTag_cmd (b : List Byte) : (s.withTag b).cmd = s.cmd := rfl
@[simp] theorem State.withTag_done (b : List Byte) : (s.withTag b).done = s.done := rfl
@[simp] theorem State.withTag_err (b : List Byte) : (s.withTag b).err = s.err := rfl
@[simp] theorem State.withTag_wign (b : List Byte) : (s.withTag b).wign = s.wign := rfl
@[simp] theorem State.withTag_code (b : List Byte) : (s.withTag b).code = s.code := rfl
@[simp] theorem State.withTag_cause (b : List Byte) : (s.withTag b).cause = s.cause := rfl
@[simp] theorem State.withTag_resultOp (b : List Byte) : (s.withTag b).resultOp = s.resultOp := rfl
@[simp] theorem State.withTag_olen (b : List Byte) : (s.withTag b).olen = s.olen := rfl
@[simp] theorem State.withTag_len (b : List Byte) : (s.withTag b).len = s.len := rfl
@[simp] theorem State.withTag_alen (b : List Byte) : (s.withTag b).alen = s.alen := rfl
@[simp] theorem State.withTag_tagSize (b : List Byte) : (s.withTag b).tagSize = s.tagSize := rfl
@[simp] theorem State.withTag_nonceSize (b : List Byte) : (s.withTag b).nonceSize = s.nonceSize := rfl
@[simp] theorem State.withTag_pktid (b : List Byte) : (s.withTag b).pktid = s.pktid := rfl
@[simp] theorem State.withTag_sender (b : List Byte) : (s.withTag b).sender = s.sender := rfl
@[simp] theorem State.withTag_xnonce (b : List Byte) : (s.withTag b).xnonce = s.xnonce := rfl
@[simp] theorem State.withTag_variant (b : List Byte) : (s.withTag b).variant = s.variant := rfl
@[simp] theorem State.withTag_route (b : List Byte) : (s.withTag b).route = s.route := rfl
@[simp] theorem State.withTag_nonce (b : List Byte) : (s.withTag b).nonce = s.nonce := rfl
@[simp] theorem State.withTag_tag (b : List Byte) : (s.withTag b).tag = pack 128 b := rfl
@[simp] theorem State.withTag_slot0 (b : List Byte) : (s.withTag b).slot0 = s.slot0 := rfl
@[simp] theorem State.withTag_slot1 (b : List Byte) : (s.withTag b).slot1 = s.slot1 := rfl
@[simp] theorem State.withTag_out (b : List Byte) : (s.withTag b).out = s.out := rfl
@[simp] theorem State.withTag_digest (b : List Byte) : (s.withTag b).digest = s.digest := rfl
@[simp] theorem State.withTag_latch (b : List Byte) : (s.withTag b).latch = s.latch := rfl
@[simp] theorem State.withTag_dkey (b : List Byte) : (s.withTag b).dkey = s.dkey := rfl
@[simp] theorem State.withTag_dkeyValid (b : List Byte) : (s.withTag b).dkeyValid = s.dkeyValid := rfl
@[simp] theorem State.withTag_mem (b : List Byte) : (s.withTag b).mem = s.mem := rfl
@[simp] theorem State.withTag_byteAt (b : List Byte) (x : Nat) : (s.withTag b).byteAt x = s.byteAt x := rfl
@[simp] theorem State.withTag_bytesAt (b : List Byte) (x k : Nat) : (s.withTag b).bytesAt x k = s.bytesAt x k := rfl
@[simp] theorem State.withTag_commandWord (b : List Byte) : (s.withTag b).commandWord = s.commandWord := rfl
@[simp] theorem State.withTag_busy (b : List Byte) : (s.withTag b).busy = s.busy := rfl

/-! withNonce -/

@[simp] theorem State.withNonce_params (b : List Byte) : (s.withNonce b).params = s.params := rfl
@[simp] theorem State.withNonce_host (b : List Byte) : (s.withNonce b).host = s.host := rfl
@[simp] theorem State.withNonce_draws (b : List Byte) : (s.withNonce b).draws = s.draws := rfl
@[simp] theorem State.withNonce_bufDraw (b : List Byte) : (s.withNonce b).bufDraw = s.bufDraw := rfl
@[simp] theorem State.withNonce_seq (b : List Byte) : (s.withNonce b).seq = s.seq := rfl
@[simp] theorem State.withNonce_irqEn (b : List Byte) : (s.withNonce b).irqEn = s.irqEn := rfl
@[simp] theorem State.withNonce_cmd (b : List Byte) : (s.withNonce b).cmd = s.cmd := rfl
@[simp] theorem State.withNonce_done (b : List Byte) : (s.withNonce b).done = s.done := rfl
@[simp] theorem State.withNonce_err (b : List Byte) : (s.withNonce b).err = s.err := rfl
@[simp] theorem State.withNonce_wign (b : List Byte) : (s.withNonce b).wign = s.wign := rfl
@[simp] theorem State.withNonce_code (b : List Byte) : (s.withNonce b).code = s.code := rfl
@[simp] theorem State.withNonce_cause (b : List Byte) : (s.withNonce b).cause = s.cause := rfl
@[simp] theorem State.withNonce_resultOp (b : List Byte) : (s.withNonce b).resultOp = s.resultOp := rfl
@[simp] theorem State.withNonce_olen (b : List Byte) : (s.withNonce b).olen = s.olen := rfl
@[simp] theorem State.withNonce_len (b : List Byte) : (s.withNonce b).len = s.len := rfl
@[simp] theorem State.withNonce_alen (b : List Byte) : (s.withNonce b).alen = s.alen := rfl
@[simp] theorem State.withNonce_tagSize (b : List Byte) : (s.withNonce b).tagSize = s.tagSize := rfl
@[simp] theorem State.withNonce_nonceSize (b : List Byte) : (s.withNonce b).nonceSize = s.nonceSize := rfl
@[simp] theorem State.withNonce_pktid (b : List Byte) : (s.withNonce b).pktid = s.pktid := rfl
@[simp] theorem State.withNonce_sender (b : List Byte) : (s.withNonce b).sender = s.sender := rfl
@[simp] theorem State.withNonce_xnonce (b : List Byte) : (s.withNonce b).xnonce = s.xnonce := rfl
@[simp] theorem State.withNonce_variant (b : List Byte) : (s.withNonce b).variant = s.variant := rfl
@[simp] theorem State.withNonce_route (b : List Byte) : (s.withNonce b).route = s.route := rfl
@[simp] theorem State.withNonce_nonce (b : List Byte) : (s.withNonce b).nonce = pack 104 b := rfl
@[simp] theorem State.withNonce_tag (b : List Byte) : (s.withNonce b).tag = s.tag := rfl
@[simp] theorem State.withNonce_slot0 (b : List Byte) : (s.withNonce b).slot0 = s.slot0 := rfl
@[simp] theorem State.withNonce_slot1 (b : List Byte) : (s.withNonce b).slot1 = s.slot1 := rfl
@[simp] theorem State.withNonce_out (b : List Byte) : (s.withNonce b).out = s.out := rfl
@[simp] theorem State.withNonce_digest (b : List Byte) : (s.withNonce b).digest = s.digest := rfl
@[simp] theorem State.withNonce_latch (b : List Byte) : (s.withNonce b).latch = s.latch := rfl
@[simp] theorem State.withNonce_dkey (b : List Byte) : (s.withNonce b).dkey = s.dkey := rfl
@[simp] theorem State.withNonce_dkeyValid (b : List Byte) : (s.withNonce b).dkeyValid = s.dkeyValid := rfl
@[simp] theorem State.withNonce_mem (b : List Byte) : (s.withNonce b).mem = s.mem := rfl
@[simp] theorem State.withNonce_byteAt (b : List Byte) (x : Nat) : (s.withNonce b).byteAt x = s.byteAt x := rfl
@[simp] theorem State.withNonce_bytesAt (b : List Byte) (x k : Nat) : (s.withNonce b).bytesAt x k = s.bytesAt x k := rfl
@[simp] theorem State.withNonce_commandWord (b : List Byte) : (s.withNonce b).commandWord = s.commandWord := rfl
@[simp] theorem State.withNonce_busy (b : List Byte) : (s.withNonce b).busy = s.busy := rfl

/-! withOut -/

@[simp] theorem State.withOut_params (b : List Byte) : (s.withOut b).params = s.params := rfl
@[simp] theorem State.withOut_host (b : List Byte) : (s.withOut b).host = s.host := rfl
@[simp] theorem State.withOut_draws (b : List Byte) : (s.withOut b).draws = s.draws := rfl
@[simp] theorem State.withOut_bufDraw (b : List Byte) : (s.withOut b).bufDraw = s.bufDraw := rfl
@[simp] theorem State.withOut_seq (b : List Byte) : (s.withOut b).seq = s.seq := rfl
@[simp] theorem State.withOut_irqEn (b : List Byte) : (s.withOut b).irqEn = s.irqEn := rfl
@[simp] theorem State.withOut_cmd (b : List Byte) : (s.withOut b).cmd = s.cmd := rfl
@[simp] theorem State.withOut_done (b : List Byte) : (s.withOut b).done = s.done := rfl
@[simp] theorem State.withOut_err (b : List Byte) : (s.withOut b).err = s.err := rfl
@[simp] theorem State.withOut_wign (b : List Byte) : (s.withOut b).wign = s.wign := rfl
@[simp] theorem State.withOut_code (b : List Byte) : (s.withOut b).code = s.code := rfl
@[simp] theorem State.withOut_cause (b : List Byte) : (s.withOut b).cause = s.cause := rfl
@[simp] theorem State.withOut_resultOp (b : List Byte) : (s.withOut b).resultOp = s.resultOp := rfl
@[simp] theorem State.withOut_olen (b : List Byte) : (s.withOut b).olen = s.olen := rfl
@[simp] theorem State.withOut_len (b : List Byte) : (s.withOut b).len = s.len := rfl
@[simp] theorem State.withOut_alen (b : List Byte) : (s.withOut b).alen = s.alen := rfl
@[simp] theorem State.withOut_tagSize (b : List Byte) : (s.withOut b).tagSize = s.tagSize := rfl
@[simp] theorem State.withOut_nonceSize (b : List Byte) : (s.withOut b).nonceSize = s.nonceSize := rfl
@[simp] theorem State.withOut_pktid (b : List Byte) : (s.withOut b).pktid = s.pktid := rfl
@[simp] theorem State.withOut_sender (b : List Byte) : (s.withOut b).sender = s.sender := rfl
@[simp] theorem State.withOut_xnonce (b : List Byte) : (s.withOut b).xnonce = s.xnonce := rfl
@[simp] theorem State.withOut_variant (b : List Byte) : (s.withOut b).variant = s.variant := rfl
@[simp] theorem State.withOut_route (b : List Byte) : (s.withOut b).route = s.route := rfl
@[simp] theorem State.withOut_nonce (b : List Byte) : (s.withOut b).nonce = s.nonce := rfl
@[simp] theorem State.withOut_tag (b : List Byte) : (s.withOut b).tag = s.tag := rfl
@[simp] theorem State.withOut_slot0 (b : List Byte) : (s.withOut b).slot0 = s.slot0 := rfl
@[simp] theorem State.withOut_slot1 (b : List Byte) : (s.withOut b).slot1 = s.slot1 := rfl
@[simp] theorem State.withOut_out (b : List Byte) : (s.withOut b).out = pack 256 b := rfl
@[simp] theorem State.withOut_digest (b : List Byte) : (s.withOut b).digest = s.digest := rfl
@[simp] theorem State.withOut_latch (b : List Byte) : (s.withOut b).latch = s.latch := rfl
@[simp] theorem State.withOut_dkey (b : List Byte) : (s.withOut b).dkey = s.dkey := rfl
@[simp] theorem State.withOut_dkeyValid (b : List Byte) : (s.withOut b).dkeyValid = s.dkeyValid := rfl
@[simp] theorem State.withOut_mem (b : List Byte) : (s.withOut b).mem = s.mem := rfl
@[simp] theorem State.withOut_byteAt (b : List Byte) (x : Nat) : (s.withOut b).byteAt x = s.byteAt x := rfl
@[simp] theorem State.withOut_bytesAt (b : List Byte) (x k : Nat) : (s.withOut b).bytesAt x k = s.bytesAt x k := rfl
@[simp] theorem State.withOut_commandWord (b : List Byte) : (s.withOut b).commandWord = s.commandWord := rfl
@[simp] theorem State.withOut_busy (b : List Byte) : (s.withOut b).busy = s.busy := rfl

/-! withDigest -/

@[simp] theorem State.withDigest_params (b : List Byte) : (s.withDigest b).params = s.params := rfl
@[simp] theorem State.withDigest_host (b : List Byte) : (s.withDigest b).host = s.host := rfl
@[simp] theorem State.withDigest_draws (b : List Byte) : (s.withDigest b).draws = s.draws := rfl
@[simp] theorem State.withDigest_bufDraw (b : List Byte) : (s.withDigest b).bufDraw = s.bufDraw := rfl
@[simp] theorem State.withDigest_seq (b : List Byte) : (s.withDigest b).seq = s.seq := rfl
@[simp] theorem State.withDigest_irqEn (b : List Byte) : (s.withDigest b).irqEn = s.irqEn := rfl
@[simp] theorem State.withDigest_cmd (b : List Byte) : (s.withDigest b).cmd = s.cmd := rfl
@[simp] theorem State.withDigest_done (b : List Byte) : (s.withDigest b).done = s.done := rfl
@[simp] theorem State.withDigest_err (b : List Byte) : (s.withDigest b).err = s.err := rfl
@[simp] theorem State.withDigest_wign (b : List Byte) : (s.withDigest b).wign = s.wign := rfl
@[simp] theorem State.withDigest_code (b : List Byte) : (s.withDigest b).code = s.code := rfl
@[simp] theorem State.withDigest_cause (b : List Byte) : (s.withDigest b).cause = s.cause := rfl
@[simp] theorem State.withDigest_resultOp (b : List Byte) : (s.withDigest b).resultOp = s.resultOp := rfl
@[simp] theorem State.withDigest_olen (b : List Byte) : (s.withDigest b).olen = s.olen := rfl
@[simp] theorem State.withDigest_len (b : List Byte) : (s.withDigest b).len = s.len := rfl
@[simp] theorem State.withDigest_alen (b : List Byte) : (s.withDigest b).alen = s.alen := rfl
@[simp] theorem State.withDigest_tagSize (b : List Byte) : (s.withDigest b).tagSize = s.tagSize := rfl
@[simp] theorem State.withDigest_nonceSize (b : List Byte) : (s.withDigest b).nonceSize = s.nonceSize := rfl
@[simp] theorem State.withDigest_pktid (b : List Byte) : (s.withDigest b).pktid = s.pktid := rfl
@[simp] theorem State.withDigest_sender (b : List Byte) : (s.withDigest b).sender = s.sender := rfl
@[simp] theorem State.withDigest_xnonce (b : List Byte) : (s.withDigest b).xnonce = s.xnonce := rfl
@[simp] theorem State.withDigest_variant (b : List Byte) : (s.withDigest b).variant = s.variant := rfl
@[simp] theorem State.withDigest_route (b : List Byte) : (s.withDigest b).route = s.route := rfl
@[simp] theorem State.withDigest_nonce (b : List Byte) : (s.withDigest b).nonce = s.nonce := rfl
@[simp] theorem State.withDigest_tag (b : List Byte) : (s.withDigest b).tag = s.tag := rfl
@[simp] theorem State.withDigest_slot0 (b : List Byte) : (s.withDigest b).slot0 = s.slot0 := rfl
@[simp] theorem State.withDigest_slot1 (b : List Byte) : (s.withDigest b).slot1 = s.slot1 := rfl
@[simp] theorem State.withDigest_out (b : List Byte) : (s.withDigest b).out = s.out := rfl
@[simp] theorem State.withDigest_digest (b : List Byte) : (s.withDigest b).digest = pack 256 b := rfl
@[simp] theorem State.withDigest_latch (b : List Byte) : (s.withDigest b).latch = s.latch := rfl
@[simp] theorem State.withDigest_dkey (b : List Byte) : (s.withDigest b).dkey = s.dkey := rfl
@[simp] theorem State.withDigest_dkeyValid (b : List Byte) : (s.withDigest b).dkeyValid = s.dkeyValid := rfl
@[simp] theorem State.withDigest_mem (b : List Byte) : (s.withDigest b).mem = s.mem := rfl
@[simp] theorem State.withDigest_byteAt (b : List Byte) (x : Nat) : (s.withDigest b).byteAt x = s.byteAt x := rfl
@[simp] theorem State.withDigest_bytesAt (b : List Byte) (x k : Nat) : (s.withDigest b).bytesAt x k = s.bytesAt x k := rfl
@[simp] theorem State.withDigest_commandWord (b : List Byte) : (s.withDigest b).commandWord = s.commandWord := rfl
@[simp] theorem State.withDigest_busy (b : List Byte) : (s.withDigest b).busy = s.busy := rfl

/-! withDkey -/

@[simp] theorem State.withDkey_params (b : List Byte) (v : Bool) : (s.withDkey b v).params = s.params := rfl
@[simp] theorem State.withDkey_host (b : List Byte) (v : Bool) : (s.withDkey b v).host = s.host := rfl
@[simp] theorem State.withDkey_draws (b : List Byte) (v : Bool) : (s.withDkey b v).draws = s.draws := rfl
@[simp] theorem State.withDkey_bufDraw (b : List Byte) (v : Bool) : (s.withDkey b v).bufDraw = s.bufDraw := rfl
@[simp] theorem State.withDkey_seq (b : List Byte) (v : Bool) : (s.withDkey b v).seq = s.seq := rfl
@[simp] theorem State.withDkey_irqEn (b : List Byte) (v : Bool) : (s.withDkey b v).irqEn = s.irqEn := rfl
@[simp] theorem State.withDkey_cmd (b : List Byte) (v : Bool) : (s.withDkey b v).cmd = s.cmd := rfl
@[simp] theorem State.withDkey_done (b : List Byte) (v : Bool) : (s.withDkey b v).done = s.done := rfl
@[simp] theorem State.withDkey_err (b : List Byte) (v : Bool) : (s.withDkey b v).err = s.err := rfl
@[simp] theorem State.withDkey_wign (b : List Byte) (v : Bool) : (s.withDkey b v).wign = s.wign := rfl
@[simp] theorem State.withDkey_code (b : List Byte) (v : Bool) : (s.withDkey b v).code = s.code := rfl
@[simp] theorem State.withDkey_cause (b : List Byte) (v : Bool) : (s.withDkey b v).cause = s.cause := rfl
@[simp] theorem State.withDkey_resultOp (b : List Byte) (v : Bool) : (s.withDkey b v).resultOp = s.resultOp := rfl
@[simp] theorem State.withDkey_olen (b : List Byte) (v : Bool) : (s.withDkey b v).olen = s.olen := rfl
@[simp] theorem State.withDkey_len (b : List Byte) (v : Bool) : (s.withDkey b v).len = s.len := rfl
@[simp] theorem State.withDkey_alen (b : List Byte) (v : Bool) : (s.withDkey b v).alen = s.alen := rfl
@[simp] theorem State.withDkey_tagSize (b : List Byte) (v : Bool) : (s.withDkey b v).tagSize = s.tagSize := rfl
@[simp] theorem State.withDkey_nonceSize (b : List Byte) (v : Bool) : (s.withDkey b v).nonceSize = s.nonceSize := rfl
@[simp] theorem State.withDkey_pktid (b : List Byte) (v : Bool) : (s.withDkey b v).pktid = s.pktid := rfl
@[simp] theorem State.withDkey_sender (b : List Byte) (v : Bool) : (s.withDkey b v).sender = s.sender := rfl
@[simp] theorem State.withDkey_xnonce (b : List Byte) (v : Bool) : (s.withDkey b v).xnonce = s.xnonce := rfl
@[simp] theorem State.withDkey_variant (b : List Byte) (v : Bool) : (s.withDkey b v).variant = s.variant := rfl
@[simp] theorem State.withDkey_route (b : List Byte) (v : Bool) : (s.withDkey b v).route = s.route := rfl
@[simp] theorem State.withDkey_nonce (b : List Byte) (v : Bool) : (s.withDkey b v).nonce = s.nonce := rfl
@[simp] theorem State.withDkey_tag (b : List Byte) (v : Bool) : (s.withDkey b v).tag = s.tag := rfl
@[simp] theorem State.withDkey_slot0 (b : List Byte) (v : Bool) : (s.withDkey b v).slot0 = s.slot0 := rfl
@[simp] theorem State.withDkey_slot1 (b : List Byte) (v : Bool) : (s.withDkey b v).slot1 = s.slot1 := rfl
@[simp] theorem State.withDkey_out (b : List Byte) (v : Bool) : (s.withDkey b v).out = s.out := rfl
@[simp] theorem State.withDkey_digest (b : List Byte) (v : Bool) : (s.withDkey b v).digest = s.digest := rfl
@[simp] theorem State.withDkey_latch (b : List Byte) (v : Bool) : (s.withDkey b v).latch = s.latch := rfl
@[simp] theorem State.withDkey_dkey (b : List Byte) (v : Bool) : (s.withDkey b v).dkey = pack 256 b := rfl
@[simp] theorem State.withDkey_dkeyValid (b : List Byte) (v : Bool) : (s.withDkey b v).dkeyValid = v := rfl
@[simp] theorem State.withDkey_mem (b : List Byte) (v : Bool) : (s.withDkey b v).mem = s.mem := rfl
@[simp] theorem State.withDkey_byteAt (b : List Byte) (v : Bool) (x : Nat) : (s.withDkey b v).byteAt x = s.byteAt x := rfl
@[simp] theorem State.withDkey_bytesAt (b : List Byte) (v : Bool) (x k : Nat) : (s.withDkey b v).bytesAt x k = s.bytesAt x k := rfl
@[simp] theorem State.withDkey_commandWord (b : List Byte) (v : Bool) : (s.withDkey b v).commandWord = s.commandWord := rfl
@[simp] theorem State.withDkey_busy (b : List Byte) (v : Bool) : (s.withDkey b v).busy = s.busy := rfl

/-! withLatch -/

@[simp] theorem State.withLatch_params (l : CcmLatch) : (s.withLatch l).params = s.params := rfl
@[simp] theorem State.withLatch_host (l : CcmLatch) : (s.withLatch l).host = s.host := rfl
@[simp] theorem State.withLatch_draws (l : CcmLatch) : (s.withLatch l).draws = s.draws := rfl
@[simp] theorem State.withLatch_bufDraw (l : CcmLatch) : (s.withLatch l).bufDraw = s.bufDraw := rfl
@[simp] theorem State.withLatch_seq (l : CcmLatch) : (s.withLatch l).seq = s.seq := rfl
@[simp] theorem State.withLatch_irqEn (l : CcmLatch) : (s.withLatch l).irqEn = s.irqEn := rfl
@[simp] theorem State.withLatch_cmd (l : CcmLatch) : (s.withLatch l).cmd = s.cmd := rfl
@[simp] theorem State.withLatch_done (l : CcmLatch) : (s.withLatch l).done = s.done := rfl
@[simp] theorem State.withLatch_err (l : CcmLatch) : (s.withLatch l).err = s.err := rfl
@[simp] theorem State.withLatch_wign (l : CcmLatch) : (s.withLatch l).wign = s.wign := rfl
@[simp] theorem State.withLatch_code (l : CcmLatch) : (s.withLatch l).code = s.code := rfl
@[simp] theorem State.withLatch_cause (l : CcmLatch) : (s.withLatch l).cause = s.cause := rfl
@[simp] theorem State.withLatch_resultOp (l : CcmLatch) : (s.withLatch l).resultOp = s.resultOp := rfl
@[simp] theorem State.withLatch_olen (l : CcmLatch) : (s.withLatch l).olen = s.olen := rfl
@[simp] theorem State.withLatch_len (l : CcmLatch) : (s.withLatch l).len = s.len := rfl
@[simp] theorem State.withLatch_alen (l : CcmLatch) : (s.withLatch l).alen = s.alen := rfl
@[simp] theorem State.withLatch_tagSize (l : CcmLatch) : (s.withLatch l).tagSize = s.tagSize := rfl
@[simp] theorem State.withLatch_nonceSize (l : CcmLatch) : (s.withLatch l).nonceSize = s.nonceSize := rfl
@[simp] theorem State.withLatch_pktid (l : CcmLatch) : (s.withLatch l).pktid = s.pktid := rfl
@[simp] theorem State.withLatch_sender (l : CcmLatch) : (s.withLatch l).sender = s.sender := rfl
@[simp] theorem State.withLatch_xnonce (l : CcmLatch) : (s.withLatch l).xnonce = s.xnonce := rfl
@[simp] theorem State.withLatch_variant (l : CcmLatch) : (s.withLatch l).variant = s.variant := rfl
@[simp] theorem State.withLatch_route (l : CcmLatch) : (s.withLatch l).route = s.route := rfl
@[simp] theorem State.withLatch_nonce (l : CcmLatch) : (s.withLatch l).nonce = s.nonce := rfl
@[simp] theorem State.withLatch_tag (l : CcmLatch) : (s.withLatch l).tag = s.tag := rfl
@[simp] theorem State.withLatch_slot0 (l : CcmLatch) : (s.withLatch l).slot0 = s.slot0 := rfl
@[simp] theorem State.withLatch_slot1 (l : CcmLatch) : (s.withLatch l).slot1 = s.slot1 := rfl
@[simp] theorem State.withLatch_out (l : CcmLatch) : (s.withLatch l).out = s.out := rfl
@[simp] theorem State.withLatch_digest (l : CcmLatch) : (s.withLatch l).digest = s.digest := rfl
@[simp] theorem State.withLatch_latch (l : CcmLatch) : (s.withLatch l).latch = l := rfl
@[simp] theorem State.withLatch_dkey (l : CcmLatch) : (s.withLatch l).dkey = s.dkey := rfl
@[simp] theorem State.withLatch_dkeyValid (l : CcmLatch) : (s.withLatch l).dkeyValid = s.dkeyValid := rfl
@[simp] theorem State.withLatch_mem (l : CcmLatch) : (s.withLatch l).mem = s.mem := rfl
@[simp] theorem State.withLatch_byteAt (l : CcmLatch) (x : Nat) : (s.withLatch l).byteAt x = s.byteAt x := rfl
@[simp] theorem State.withLatch_bytesAt (l : CcmLatch) (x k : Nat) : (s.withLatch l).bytesAt x k = s.bytesAt x k := rfl
@[simp] theorem State.withLatch_commandWord (l : CcmLatch) : (s.withLatch l).commandWord = s.commandWord := rfl
@[simp] theorem State.withLatch_busy (l : CcmLatch) : (s.withLatch l).busy = s.busy := rfl

/-! writeMem -/

@[simp] theorem State.writeMem_params (o : Nat) (b : List Byte) : (s.writeMem o b).params = s.params := rfl
@[simp] theorem State.writeMem_host (o : Nat) (b : List Byte) : (s.writeMem o b).host = s.host := rfl
@[simp] theorem State.writeMem_draws (o : Nat) (b : List Byte) : (s.writeMem o b).draws = s.draws := rfl
@[simp] theorem State.writeMem_bufDraw (o : Nat) (b : List Byte) : (s.writeMem o b).bufDraw = s.bufDraw := rfl
@[simp] theorem State.writeMem_seq (o : Nat) (b : List Byte) : (s.writeMem o b).seq = s.seq := rfl
@[simp] theorem State.writeMem_irqEn (o : Nat) (b : List Byte) : (s.writeMem o b).irqEn = s.irqEn := rfl
@[simp] theorem State.writeMem_cmd (o : Nat) (b : List Byte) : (s.writeMem o b).cmd = s.cmd := rfl
@[simp] theorem State.writeMem_done (o : Nat) (b : List Byte) : (s.writeMem o b).done = s.done := rfl
@[simp] theorem State.writeMem_err (o : Nat) (b : List Byte) : (s.writeMem o b).err = s.err := rfl
@[simp] theorem State.writeMem_wign (o : Nat) (b : List Byte) : (s.writeMem o b).wign = s.wign := rfl
@[simp] theorem State.writeMem_code (o : Nat) (b : List Byte) : (s.writeMem o b).code = s.code := rfl
@[simp] theorem State.writeMem_cause (o : Nat) (b : List Byte) : (s.writeMem o b).cause = s.cause := rfl
@[simp] theorem State.writeMem_resultOp (o : Nat) (b : List Byte) : (s.writeMem o b).resultOp = s.resultOp := rfl
@[simp] theorem State.writeMem_olen (o : Nat) (b : List Byte) : (s.writeMem o b).olen = s.olen := rfl
@[simp] theorem State.writeMem_len (o : Nat) (b : List Byte) : (s.writeMem o b).len = s.len := rfl
@[simp] theorem State.writeMem_alen (o : Nat) (b : List Byte) : (s.writeMem o b).alen = s.alen := rfl
@[simp] theorem State.writeMem_tagSize (o : Nat) (b : List Byte) : (s.writeMem o b).tagSize = s.tagSize := rfl
@[simp] theorem State.writeMem_nonceSize (o : Nat) (b : List Byte) : (s.writeMem o b).nonceSize = s.nonceSize := rfl
@[simp] theorem State.writeMem_pktid (o : Nat) (b : List Byte) : (s.writeMem o b).pktid = s.pktid := rfl
@[simp] theorem State.writeMem_sender (o : Nat) (b : List Byte) : (s.writeMem o b).sender = s.sender := rfl
@[simp] theorem State.writeMem_xnonce (o : Nat) (b : List Byte) : (s.writeMem o b).xnonce = s.xnonce := rfl
@[simp] theorem State.writeMem_variant (o : Nat) (b : List Byte) : (s.writeMem o b).variant = s.variant := rfl
@[simp] theorem State.writeMem_route (o : Nat) (b : List Byte) : (s.writeMem o b).route = s.route := rfl
@[simp] theorem State.writeMem_nonce (o : Nat) (b : List Byte) : (s.writeMem o b).nonce = s.nonce := rfl
@[simp] theorem State.writeMem_tag (o : Nat) (b : List Byte) : (s.writeMem o b).tag = s.tag := rfl
@[simp] theorem State.writeMem_slot0 (o : Nat) (b : List Byte) : (s.writeMem o b).slot0 = s.slot0 := rfl
@[simp] theorem State.writeMem_slot1 (o : Nat) (b : List Byte) : (s.writeMem o b).slot1 = s.slot1 := rfl
@[simp] theorem State.writeMem_out (o : Nat) (b : List Byte) : (s.writeMem o b).out = s.out := rfl
@[simp] theorem State.writeMem_digest (o : Nat) (b : List Byte) : (s.writeMem o b).digest = s.digest := rfl
@[simp] theorem State.writeMem_latch (o : Nat) (b : List Byte) : (s.writeMem o b).latch = s.latch := rfl
@[simp] theorem State.writeMem_dkey (o : Nat) (b : List Byte) : (s.writeMem o b).dkey = s.dkey := rfl
@[simp] theorem State.writeMem_dkeyValid (o : Nat) (b : List Byte) : (s.writeMem o b).dkeyValid = s.dkeyValid := rfl
@[simp] theorem State.writeMem_mem (o : Nat) (b : List Byte) : (s.writeMem o b).mem = s.mem.write o b := rfl
@[simp] theorem State.writeMem_commandWord (o : Nat) (b : List Byte) : (s.writeMem o b).commandWord = s.commandWord := rfl
@[simp] theorem State.writeMem_busy (o : Nat) (b : List Byte) : (s.writeMem o b).busy = s.busy := rfl

/-! answer -/

@[simp] theorem State.answer_params (r : Response) : (s.answer r).params = s.params := rfl
@[simp] theorem State.answer_host (r : Response) : (s.answer r).host = { s.host with responses := r :: s.host.responses } := rfl
@[simp] theorem State.answer_draws (r : Response) : (s.answer r).draws = s.draws := rfl
@[simp] theorem State.answer_bufDraw (r : Response) : (s.answer r).bufDraw = s.bufDraw := rfl
@[simp] theorem State.answer_seq (r : Response) : (s.answer r).seq = s.seq := rfl
@[simp] theorem State.answer_irqEn (r : Response) : (s.answer r).irqEn = s.irqEn := rfl
@[simp] theorem State.answer_cmd (r : Response) : (s.answer r).cmd = s.cmd := rfl
@[simp] theorem State.answer_done (r : Response) : (s.answer r).done = s.done := rfl
@[simp] theorem State.answer_err (r : Response) : (s.answer r).err = s.err := rfl
@[simp] theorem State.answer_wign (r : Response) : (s.answer r).wign = s.wign := rfl
@[simp] theorem State.answer_code (r : Response) : (s.answer r).code = s.code := rfl
@[simp] theorem State.answer_cause (r : Response) : (s.answer r).cause = s.cause := rfl
@[simp] theorem State.answer_resultOp (r : Response) : (s.answer r).resultOp = s.resultOp := rfl
@[simp] theorem State.answer_olen (r : Response) : (s.answer r).olen = s.olen := rfl
@[simp] theorem State.answer_len (r : Response) : (s.answer r).len = s.len := rfl
@[simp] theorem State.answer_alen (r : Response) : (s.answer r).alen = s.alen := rfl
@[simp] theorem State.answer_tagSize (r : Response) : (s.answer r).tagSize = s.tagSize := rfl
@[simp] theorem State.answer_nonceSize (r : Response) : (s.answer r).nonceSize = s.nonceSize := rfl
@[simp] theorem State.answer_pktid (r : Response) : (s.answer r).pktid = s.pktid := rfl
@[simp] theorem State.answer_sender (r : Response) : (s.answer r).sender = s.sender := rfl
@[simp] theorem State.answer_xnonce (r : Response) : (s.answer r).xnonce = s.xnonce := rfl
@[simp] theorem State.answer_variant (r : Response) : (s.answer r).variant = s.variant := rfl
@[simp] theorem State.answer_route (r : Response) : (s.answer r).route = s.route := rfl
@[simp] theorem State.answer_nonce (r : Response) : (s.answer r).nonce = s.nonce := rfl
@[simp] theorem State.answer_tag (r : Response) : (s.answer r).tag = s.tag := rfl
@[simp] theorem State.answer_slot0 (r : Response) : (s.answer r).slot0 = s.slot0 := rfl
@[simp] theorem State.answer_slot1 (r : Response) : (s.answer r).slot1 = s.slot1 := rfl
@[simp] theorem State.answer_out (r : Response) : (s.answer r).out = s.out := rfl
@[simp] theorem State.answer_digest (r : Response) : (s.answer r).digest = s.digest := rfl
@[simp] theorem State.answer_latch (r : Response) : (s.answer r).latch = s.latch := rfl
@[simp] theorem State.answer_dkey (r : Response) : (s.answer r).dkey = s.dkey := rfl
@[simp] theorem State.answer_dkeyValid (r : Response) : (s.answer r).dkeyValid = s.dkeyValid := rfl
@[simp] theorem State.answer_mem (r : Response) : (s.answer r).mem = s.mem := rfl
@[simp] theorem State.answer_byteAt (r : Response) (x : Nat) : (s.answer r).byteAt x = s.byteAt x := rfl
@[simp] theorem State.answer_bytesAt (r : Response) (x k : Nat) : (s.answer r).bytesAt x k = s.bytesAt x k := rfl
@[simp] theorem State.answer_commandWord (r : Response) : (s.answer r).commandWord = s.commandWord := rfl
@[simp] theorem State.answer_busy (r : Response) : (s.answer r).busy = s.busy := rfl

/-! withPending -/

@[simp] theorem State.withPending_params (es : List HostEvent) : (s.withPending es).params = s.params := rfl
@[simp] theorem State.withPending_host (es : List HostEvent) : (s.withPending es).host = { s.host with pending := es } := rfl
@[simp] theorem State.withPending_draws (es : List HostEvent) : (s.withPending es).draws = s.draws := rfl
@[simp] theorem State.withPending_bufDraw (es : List HostEvent) : (s.withPending es).bufDraw = s.bufDraw := rfl
@[simp] theorem State.withPending_seq (es : List HostEvent) : (s.withPending es).seq = s.seq := rfl
@[simp] theorem State.withPending_irqEn (es : List HostEvent) : (s.withPending es).irqEn = s.irqEn := rfl
@[simp] theorem State.withPending_cmd (es : List HostEvent) : (s.withPending es).cmd = s.cmd := rfl
@[simp] theorem State.withPending_done (es : List HostEvent) : (s.withPending es).done = s.done := rfl
@[simp] theorem State.withPending_err (es : List HostEvent) : (s.withPending es).err = s.err := rfl
@[simp] theorem State.withPending_wign (es : List HostEvent) : (s.withPending es).wign = s.wign := rfl
@[simp] theorem State.withPending_code (es : List HostEvent) : (s.withPending es).code = s.code := rfl
@[simp] theorem State.withPending_cause (es : List HostEvent) : (s.withPending es).cause = s.cause := rfl
@[simp] theorem State.withPending_resultOp (es : List HostEvent) : (s.withPending es).resultOp = s.resultOp := rfl
@[simp] theorem State.withPending_olen (es : List HostEvent) : (s.withPending es).olen = s.olen := rfl
@[simp] theorem State.withPending_len (es : List HostEvent) : (s.withPending es).len = s.len := rfl
@[simp] theorem State.withPending_alen (es : List HostEvent) : (s.withPending es).alen = s.alen := rfl
@[simp] theorem State.withPending_tagSize (es : List HostEvent) : (s.withPending es).tagSize = s.tagSize := rfl
@[simp] theorem State.withPending_nonceSize (es : List HostEvent) : (s.withPending es).nonceSize = s.nonceSize := rfl
@[simp] theorem State.withPending_pktid (es : List HostEvent) : (s.withPending es).pktid = s.pktid := rfl
@[simp] theorem State.withPending_sender (es : List HostEvent) : (s.withPending es).sender = s.sender := rfl
@[simp] theorem State.withPending_xnonce (es : List HostEvent) : (s.withPending es).xnonce = s.xnonce := rfl
@[simp] theorem State.withPending_variant (es : List HostEvent) : (s.withPending es).variant = s.variant := rfl
@[simp] theorem State.withPending_route (es : List HostEvent) : (s.withPending es).route = s.route := rfl
@[simp] theorem State.withPending_nonce (es : List HostEvent) : (s.withPending es).nonce = s.nonce := rfl
@[simp] theorem State.withPending_tag (es : List HostEvent) : (s.withPending es).tag = s.tag := rfl
@[simp] theorem State.withPending_slot0 (es : List HostEvent) : (s.withPending es).slot0 = s.slot0 := rfl
@[simp] theorem State.withPending_slot1 (es : List HostEvent) : (s.withPending es).slot1 = s.slot1 := rfl
@[simp] theorem State.withPending_out (es : List HostEvent) : (s.withPending es).out = s.out := rfl
@[simp] theorem State.withPending_digest (es : List HostEvent) : (s.withPending es).digest = s.digest := rfl
@[simp] theorem State.withPending_latch (es : List HostEvent) : (s.withPending es).latch = s.latch := rfl
@[simp] theorem State.withPending_dkey (es : List HostEvent) : (s.withPending es).dkey = s.dkey := rfl
@[simp] theorem State.withPending_dkeyValid (es : List HostEvent) : (s.withPending es).dkeyValid = s.dkeyValid := rfl
@[simp] theorem State.withPending_mem (es : List HostEvent) : (s.withPending es).mem = s.mem := rfl
@[simp] theorem State.withPending_byteAt (es : List HostEvent) (x : Nat) : (s.withPending es).byteAt x = s.byteAt x := rfl
@[simp] theorem State.withPending_bytesAt (es : List HostEvent) (x k : Nat) : (s.withPending es).bytesAt x k = s.bytesAt x k := rfl
@[simp] theorem State.withPending_commandWord (es : List HostEvent) : (s.withPending es).commandWord = s.commandWord := rfl
@[simp] theorem State.withPending_busy (es : List HostEvent) : (s.withPending es).busy = s.busy := rfl

@[simp] theorem State.complete_busy (c d : ResultCode) : (s.complete c d).busy = false := rfl
@[simp] theorem State.complete_commandWord (c d : ResultCode) : (s.complete c d).commandWord = s.cmd := rfl
@[simp] theorem State.accept_busy (w : Word) : (s.accept w).busy = true := rfl
@[simp] theorem State.accept_commandWord (w : Word) : (s.accept w).commandWord = w := rfl

end updates

/-- The word a running command completes with is the one SEQ holds (spec 10 R31). -/
theorem State.commandWord_of_busy (s : State) (w : Word) (h : s.seq = .busy w) : s.commandWord = w := by
  simp [State.commandWord, h]

/-- BUSY is 1 exactly when SEQ is BUSY(w) (spec 10 R31). -/
theorem State.busy_iff (s : State) : s.busy = true ↔ ∃ w, s.seq = .busy w := by
  unfold State.busy; cases s.seq <;> simp

/-- BUSY is 0 exactly when SEQ is IDLE (spec 10 R31). -/
theorem State.busy_false_iff (s : State) : s.busy = false ↔ s.seq = .idle := by
  unfold State.busy; cases s.seq <;> simp

end Sys2Proof.Machine
end

