-- ==== Sys2Proof/Laws/Bus.lean ====
section
/-! SUPPORT. The register map read from offset to register (spec 10 R32), the accesses while idle, the words of STATUS
and RESULT as numbers, what the writes of CTRL do, and the words of the driver's commands. -/

namespace Sys2Proof.Machine

open Sys2Proof

/-- Below the nonce every offset is a single register or reserved (spec 10 R32). -/
theorem regAt_low (p : Params) {off : Nat} (h : off < 0x040) : regAt p off = singleReg off := by
  have hd : dbufBase = 0x400 := rfl
  have ha : abufBase = 0x800 := rfl
  unfold regAt
  split_ifs <;> first | omega | rfl

/-- A single register stands at its own offset (spec 10 R32). -/
theorem singleReg_offset {off : Nat} {r : Reg} (h : singleReg off = r) : r = .reserved ∨ off = r.offset := by
  unfold singleReg at h
  split at h <;> subst h <;> first | exact .inr rfl | exact .inl rfl

/-- A single register is no buffer word (spec 10 R32). -/
theorem singleReg_not_buffer (off o : Nat) : singleReg off ≠ .dbuf o ∧ singleReg off ≠ .abuf o := by
  unfold singleReg
  split <;> simp

/-- The register at a word-aligned offset is reserved or has that offset (spec 10 R32). -/
theorem regAt_offset {p : Params} {off : Nat} {r : Reg} (ha : off % 4 = 0) (h : regAt p off = r) :
    r = .reserved ∨ off = r.offset := by
  have hd : dbufBase = 0x400 := rfl
  have hb : abufBase = 0x800 := rfl
  unfold regAt at h
  split_ifs at h <;> first | exact singleReg_offset h | (right; subst h; simp only [Reg.offset]; omega)

/-- A DBUF word lies in the DBUF window (spec 20 R85). -/
theorem regAt_dbuf {p : Params} {off o : Nat} (h : regAt p off = .dbuf o) :
    o = off - dbufBase ∧ dbufBase ≤ off ∧ off < dbufBase + p.dbufBytes := by
  unfold regAt at h
  split_ifs at h <;>
    first
    | exact absurd h (singleReg_not_buffer _ _).1
    | (injection h with e; exact ⟨e.symm, by assumption⟩)

/-- An ABUF word lies in the ABUF window (spec 20 R86). -/
theorem regAt_abuf {p : Params} {off o : Nat} (h : regAt p off = .abuf o) :
    o = off - abufBase ∧ abufBase ≤ off ∧ off < abufBase + p.abufBytes := by
  unfold regAt at h
  split_ifs at h <;>
    first
    | exact absurd h (singleReg_not_buffer _ _).2
    | (injection h with e; exact ⟨e.symm, by assumption⟩)

/-- A write of CTRL without SRST sets IRQ_EN alone (spec 10 R36). -/
theorem State.writeCtrl_irqEn (s : State) {w : Word} (h : w.getLsbD 1 = false) :
    s.writeCtrl w = { s with irqEn := w.getLsbD 0 } := by
  rw [State.writeCtrl, h]
  rfl

/-- A write of CTRL with SRST is the soft reset (spec 10 R36). -/
theorem State.writeCtrl_softReset (s : State) {w : Word} (h : w.getLsbD 1 = true) : s.writeCtrl w = s.softReset := by
  rw [State.writeCtrl, h]
  rfl

/-- While the sequencer is idle a read answers the register's value (spec 10 R32). -/
theorem State.hostRead_idle {s : State} (h : s.busy = false) (off : Nat) :
    s.hostRead off = s.answer (.data (s.readReg (regAt s.params off))) := by
  simp [State.hostRead, h]

/-- While the sequencer is idle a write does what the register's rule says (spec 10 R32). -/
theorem State.hostWrite_idle {s : State} (h : s.busy = false) (off : Nat) (w : Word) :
    s.hostWrite off w = (s.writeReg (regAt s.params off) w).answer .written := by
  simp [State.hostWrite, h]

/-- The 4 bits of a result code are its number (spec 60 R351). -/
theorem ResultCode.value_toNat (c : ResultCode) : c.value.toNat = c.number := by cases c <;> rfl

/-- STATUS is the sum of its bits (spec 10 R38 to R42). -/
theorem State.statusWord_eq (s : State) : s.statusWord = BitVec.ofNat 32 s.statusNumber := by
  unfold State.statusWord State.statusNumber
  rcases hs : s.seq with _ | w <;> cases s.done <;> cases s.err <;> cases s.wign <;> cases s.latch.ready <;>
    cases s.dkeyValid <;> simp [State.busy, hs]

/-- Three fields of a word at bits 0, 8 and 16, as a number. -/
theorem resultFields_eq (op : BitVec 8) (cause code : BitVec 4) :
    (0#8 ++ op ++ 0#4 ++ cause ++ 0#4 ++ code : BitVec (8 + 8 + 4 + 4 + 4 + 4)) =
      BitVec.ofNat 32 (code.toNat + cause.toNat * 2 ^ 8 + op.toNat * 2 ^ 16) := by
  apply BitVec.eq_of_toNat_eq
  have h1 := code.isLt
  have h2 := cause.isLt
  have h3 := op.isLt
  simp only [BitVec.toNat_append, BitVec.toNat_ofNat, Nat.shiftLeft_eq]
  simp only [← Nat.shiftLeft_eq, ← Nat.shiftLeft_add_eq_or_of_lt h1, ← Nat.shiftLeft_add_eq_or_of_lt h2,
    ← Nat.shiftLeft_add_eq_or_of_lt h3, ← Nat.shiftLeft_add_eq_or_of_lt (show 0 % 2 ^ 4 < 2 ^ 4 by omega)]
  simp only [Nat.shiftLeft_eq]
  omega

/-- RESULT is the sum of its fields (spec 10 R43). -/
theorem State.resultWord_eq (s : State) : s.resultWord = BitVec.ofNat 32 s.resultNumber := by
  rw [State.resultNumber, ← ResultCode.value_toNat, ← ResultCode.value_toNat]
  exact resultFields_eq _ _ _

/-- A mnemonic without options gives the word of its command (spec 30 R119). -/
theorem drvWord_command (m : Mnemonic) : drvWord m .slot0 false = encode m.command := by cases m <;> rfl

end Sys2Proof.Machine
end

