-- ==== Sys2Proof/Laws/Bytes.lean ====
section
/-! SUPPORT. The laws of byte strings: lengths, and that the integer encodings and the register packing are inverse
(spec 00 R13, spec 20 R84). -/

namespace Sys2Proof.Machine

open Sys2Proof

@[simp] theorem leBytes_length (n x : Nat) : (leBytes n x).length = n := by
  induction n generalizing x with
  | zero => rfl
  | succ n ih => simp [leBytes, ih]

@[simp] theorem beBytes_length (n x : Nat) : (beBytes n x).length = n := by simp [beBytes]

@[simp] theorem zeros_length (n : Nat) : (zeros n).length = n := by simp [zeros]

@[simp] theorem unpack_length {w : Nat} (n : Nat) (v : BitVec w) : (unpack n v).length = n := by simp [unpack]

theorem fromLE_lt (b : List Byte) : fromLE b < 2 ^ (8 * b.length) := by
  induction b with
  | nil => simp [fromLE]
  | cons x b ih =>
    have hx := x.isLt
    have : (2 : Nat) ^ (8 * (b.length + 1)) = 256 * 2 ^ (8 * b.length) := by
      rw [Nat.mul_succ, Nat.pow_add]; omega
    simp only [fromLE, List.length_cons, this]
    omega

theorem fromLE_leBytes (n x : Nat) : fromLE (leBytes n x) = x % 2 ^ (8 * n) := by
  induction n generalizing x with
  | zero => simp [leBytes, fromLE, Nat.mod_one]
  | succ n ih =>
    have h : (2 : Nat) ^ (8 * (n + 1)) = 256 * 2 ^ (8 * n) := by rw [Nat.mul_succ, Nat.pow_add]; omega
    simp only [leBytes, fromLE, ih, h, BitVec.toNat_ofNat]
    rw [Nat.mod_mul]

theorem leBytes_fromLE (b : List Byte) : leBytes b.length (fromLE b) = b := by
  induction b with
  | nil => rfl
  | cons x b ih =>
    have hx := x.isLt
    have h1 : (x.toNat + 256 * fromLE b) / 256 = fromLE b := by omega
    simp only [List.length_cons, leBytes, fromLE, h1, ih]
    congr 1
    apply BitVec.eq_of_toNat_eq
    simp only [BitVec.toNat_ofNat]
    omega

theorem leBytes_eq_of_lt {n x y : Nat} (hx : x < 2 ^ (8 * n)) (hy : y < 2 ^ (8 * n))
    (h : leBytes n x = leBytes n y) : x = y := by
  have := congrArg fromLE h
  rwa [fromLE_leBytes, fromLE_leBytes, Nat.mod_eq_of_lt hx, Nat.mod_eq_of_lt hy] at this

theorem leBytes_zero (n : Nat) : leBytes n 0 = zeros n := by
  induction n with
  | zero => rfl
  | succ n ih => simp only [leBytes, Nat.zero_div, ih]; rfl

theorem leBytes_eq_zeros {n x : Nat} (hx : x < 2 ^ (8 * n)) : leBytes n x = zeros n ↔ x = 0 := by
  rw [← leBytes_zero n]
  exact ⟨fun h => leBytes_eq_of_lt hx (Nat.pow_pos (by decide)) h, fun h => by rw [h]⟩

theorem fromLE_zeros (n : Nat) : fromLE (zeros n) = 0 := by
  rw [← leBytes_zero, fromLE_leBytes]; simp

theorem fromLE_append (a b : List Byte) : fromLE (a ++ b) = fromLE a + 2 ^ (8 * a.length) * fromLE b := by
  induction a with
  | nil => simp [fromLE]
  | cons x a ih =>
    have : (2 : Nat) ^ (8 * (a.length + 1)) = 256 * 2 ^ (8 * a.length) := by
      rw [Nat.mul_succ, Nat.pow_add]; omega
    simp only [List.cons_append, fromLE, ih, List.length_cons, this]
    ring

theorem pack_toNat (w : Nat) (b : List Byte) (h : 8 * b.length ≤ w) : (pack w b).toNat = fromLE b := by
  simp only [pack, BitVec.toNat_ofNat]
  exact Nat.mod_eq_of_lt (Nat.lt_of_lt_of_le (fromLE_lt b) (Nat.pow_le_pow_right (by decide) h))

/-- A byte string packed into registers of its size reads back (spec 20 R84). -/
theorem unpack_pack (w : Nat) (b : List Byte) (h : 8 * b.length ≤ w) : unpack b.length (pack w b) = b := by
  rw [unpack, pack_toNat w b h, leBytes_fromLE]

/-- Registers unpacked to a byte string of their size pack back (spec 20 R84). -/
theorem pack_unpack {w : Nat} (n : Nat) (v : BitVec w) (h : 8 * n = w) : pack w (unpack n v) = v := by
  apply BitVec.eq_of_toNat_eq
  have hv := v.isLt
  rw [pack_toNat w _ (by simp [h]), unpack, fromLE_leBytes, h, Nat.mod_eq_of_lt hv]

@[simp] theorem xorBytes_length (a b : List Byte) : (xorBytes a b).length = min a.length b.length := by
  simp [xorBytes]

/-- XOR with the same string twice gives the string back, when it is long enough (spec 00 R13). -/
theorem xorBytes_xorBytes (a k : List Byte) (h : a.length ≤ k.length) : xorBytes (xorBytes a k) k = a := by
  apply List.ext_getElem
  · simp [h]
  · intro i h1 h2
    simp only [xorBytes, List.getElem_zipWith]
    rw [BitVec.xor_assoc, BitVec.xor_self, BitVec.xor_zero]

theorem takeBlocks_length (k n : Nat) (b : List Byte) : (takeBlocks k n b).length = n := by
  induction n generalizing b with
  | zero => rfl
  | succ n ih => simp [takeBlocks, ih]

theorem takeBlocks_block_length (k n : Nat) (b : List Byte) (h : k * n ≤ b.length) :
    ∀ q ∈ takeBlocks k n b, q.length = k := by
  induction n generalizing b with
  | zero => simp [takeBlocks]
  | succ n ih =>
    have hk : k ≤ b.length := Nat.le_trans (Nat.le_mul_of_pos_right k (Nat.succ_pos n)) h
    intro q hq
    simp only [takeBlocks, List.mem_cons] at hq
    rcases hq with rfl | hq
    · simp [hk]
    · exact ih (b.drop k) (by rw [List.length_drop]; rw [Nat.mul_succ] at h; omega) q hq

/-- Every block of blocksOf k has k bytes. -/
theorem blocksOf_block_length (k : Nat) (b : List Byte) : ∀ q ∈ blocksOf k b, q.length = k :=
  takeBlocks_block_length k _ b (Nat.mul_div_le _ _)

/-- The blocks of a string of whole blocks followed by another are the blocks of the two, in order. -/
theorem takeBlocks_append {k : Nat} (a b : List Byte) (n m : Nat) (h : a.length = k * n) :
    takeBlocks k (n + m) (a ++ b) = takeBlocks k n a ++ takeBlocks k m b := by
  induction n generalizing a with
  | zero =>
    obtain rfl : a = [] := List.length_eq_zero_iff.1 (by simpa using h)
    simp [takeBlocks]
  | succ n ih =>
    have hk : k - a.length = 0 := by rw [h, Nat.mul_succ]; omega
    rw [Nat.succ_add, takeBlocks, takeBlocks, List.drop_append, List.take_append, hk]
    simp only [List.take_zero, List.append_nil, List.drop_zero, List.cons_append]
    rw [ih (a.drop k) (by rw [List.length_drop, h, Nat.mul_succ]; omega)]

/-- pad16 makes the length a multiple of 16 (spec 00 R13). -/
theorem pad16_length_mod (b : List Byte) : (pad16 b).length % 16 = 0 := by
  simp [pad16]; omega

/-- A word written to a register group reads back, when it lies whole in the group (spec 20 R84). -/
theorem getWord_setWord {w : Nat} (v : BitVec w) (k : Nat) (d : Word) (h : 32 * k + 32 ≤ w) :
    getWord (setWord v k d) k = d := by
  apply BitVec.eq_of_getLsbD_eq
  intro i hi
  have h1 : 32 * k + i < w := by omega
  have h2 : ∀ j (h : j < 32), (0xFFFFFFFF#32)[j] = true := by decide
  simp [getWord, setWord, hi, h1, h2]

/-- A word write leaves the other words of the group alone (spec 20 R84). -/
theorem getWord_setWord_ne {w : Nat} (v : BitVec w) (k j : Nat) (d : Word) (h : j ≠ k) :
    getWord (setWord v k d) j = getWord v j := by
  apply BitVec.eq_of_getLsbD_eq
  intro i hi
  simp only [getWord, setWord, BitVec.getLsbD_extractLsb', hi, decide_true, Bool.true_and,
    BitVec.getLsbD_or, BitVec.getLsbD_and, BitVec.getLsbD_not, BitVec.getLsbD_shiftLeft, BitVec.getLsbD_setWidth]
  rcases Nat.lt_or_gt_of_ne h with hlt | hgt
  · have : 32 * j + i < 32 * k := by omega
    by_cases hw : 32 * j + i < w
    · simp [this, hw]
    · simp [this, hw, BitVec.getLsbD_of_ge v _ (Nat.not_lt.1 hw)]
  · have h32 : ¬(32 * j + i - 32 * k < 32) := by omega
    have hz : (0xFFFFFFFF#32).getLsbD (32 * j + i - 32 * k) = false := BitVec.getLsbD_of_ge _ _ (by omega)
    have hd : d.getLsbD (32 * j + i - 32 * k) = false := BitVec.getLsbD_of_ge _ _ (by omega)
    by_cases hw : 32 * j + i < w
    · simp [hw, hz, hd]
    · simp [hw, BitVec.getLsbD_of_ge v _ (Nat.not_lt.1 hw)]

end Sys2Proof.Machine
end

