-- ==== Sys2Proof/Laws/Crypto.lean ====
section
/-! SUPPORT. The laws of the pure functions: the lengths of AES blocks, keystreams, tags, nonces, digests and X25519
strings, and that the CTR transform is its own inverse (spec 40, 41, 42, 43, 44). -/

namespace Sys2Proof.Machine

open Sys2Proof

/-! AES -/

@[simp] theorem subBytes_length (s : List Byte) : (subBytes s).length = s.length := by simp [subBytes]

@[simp] theorem shiftRows_length (s : List Byte) : (shiftRows s).length = 16 := by simp [shiftRows]

@[simp] theorem mixColumns_length (s : List Byte) : (mixColumns s).length = 16 := by
  simp [mixColumns, mixColumn]

theorem rotWord_length (t : List Byte) : (rotWord t).length = t.length := by
  simp [rotWord]; omega

/-- Word j of the expanded key has 4 bytes when the words before it do (spec 40 R147). -/
theorem nextKeyWord_length {nk j : Nat} {ws : List (List Byte)} (h : ∀ w ∈ ws, w.length = 4) (hj : ws.length = j)
    (hnk : 0 < nk) (hle : nk ≤ j) : (nextKeyWord nk j ws).length = 4 := by
  have hget : ∀ i, i < j → (ws.getD i []).length = 4 := by
    intro i hi
    have hi' : i < ws.length := by omega
    rw [List.getD_eq_getElem _ _ hi']
    exact h _ (List.getElem_mem hi')
  have h1 := hget (j - 1) (by omega)
  have h2 := hget (j - nk) (by omega)
  simp only [nextKeyWord, xorBytes_length, h2]
  generalize ws.getD (j - 1) [] = t at h1
  split
  · simp [rotWord_length, h1]
  · split <;> simp [h1]

theorem expandFrom_spec {nk : Nat} (hnk : 0 < nk) (n j : Nat) (ws : List (List Byte))
    (h : ∀ w ∈ ws, w.length = 4) (hj : ws.length = j) (hle : nk ≤ j) :
    (expandFrom nk n j ws).length = j + n ∧ ∀ w ∈ expandFrom nk n j ws, w.length = 4 := by
  induction n generalizing j ws with
  | zero => exact ⟨hj, h⟩
  | succ n ih =>
    have := ih (j + 1) (ws ++ [nextKeyWord nk j ws])
      (by
        intro w hw
        rcases List.mem_append.1 hw with hw | hw
        · exact h w hw
        · rw [List.mem_singleton.1 hw]; exact nextKeyWord_length h hj hnk hle)
      (by simp [hj]) (by omega)
    refine ⟨?_, this.2⟩
    rw [expandFrom, this.1]; omega

/-- The expanded key of a key of 16, 24 or 32 bytes: 4(Nr + 1) words of 4 bytes (spec 40 R147). -/
theorem expandKey_spec {k : List Byte} (h : aesKeyLength k.length = true) :
    (expandKey k).length = 4 * (roundCount k + 1) ∧ ∀ w ∈ expandKey k, w.length = 4 := by
  have hk : k.length = 16 ∨ k.length = 24 ∨ k.length = 32 := by
    simpa [aesKeyLength, or_assoc] using h
  have hnk : 0 < keyWords k := by unfold keyWords; omega
  have := expandFrom_spec hnk (4 * (roundCount k + 1) - keyWords k) (keyWords k) (blocksOf 4 k)
    (blocksOf_block_length 4 k) (by simp [blocksOf, takeBlocks_length, keyWords]) (Nat.le_refl _)
  refine ⟨?_, this.2⟩
  rw [expandKey, this.1]
  unfold roundCount
  omega

theorem flatten_length_of_four {l : List (List Byte)} (h : ∀ w ∈ l, w.length = 4) :
    l.flatten.length = 4 * l.length := by
  induction l with
  | nil => rfl
  | cons x l ih =>
    have hx := h x (List.mem_cons_self ..)
    have := ih fun w hw => h w (List.mem_cons_of_mem _ hw)
    simp only [List.flatten_cons, List.length_append, List.length_cons, hx, this]; omega

theorem roundKey_length {k : List Byte} (h : aesKeyLength k.length = true) {i : Nat} (hi : i ≤ roundCount k) :
    (roundKey (expandKey k) i).length = 16 := by
  obtain ⟨hl, hw⟩ := expandKey_spec h
  rw [roundKey, flatten_length_of_four (fun w m => hw w (List.drop_subset _ _ (List.take_subset _ _ m)))]
  simp only [List.length_take, List.length_drop, hl]
  omega

/-- E(K, X) is a 16-byte block for every key of 16, 24 or 32 bytes (spec 40 R140). -/
theorem aes_length {k : List Byte} (h : aesKeyLength k.length = true) (x : List Byte) : (aes k x).length = 16 := by
  simp [aes, addRoundKey, roundKey_length h (Nat.le_refl _)]

/-! CCM -/

theorem keystream_length {k : List Byte} (h : aesKeyLength k.length = true) (nonce : List Byte) (n : Nat) :
    (keystream k nonce n).length = n := by
  simp only [keystream, List.length_take, List.length_flatMap, aes_length h, List.map_const', List.length_range,
    List.sum_replicate, smul_eq_mul]
  omega

/-- The CTR transform keeps the length (spec 41 R181). -/
theorem ctr_length {k : List Byte} (h : aesKeyLength k.length = true) (nonce d : List Byte) :
    (ctr k nonce d).length = d.length := by
  simp [ctr, keystream_length h]

/-- The CTR transform is its own inverse (spec 41 R181). -/
theorem ctr_ctr {k : List Byte} (h : aesKeyLength k.length = true) (nonce d : List Byte) :
    ctr k nonce (ctr k nonce d) = d := by
  have hl := ctr_length h nonce d
  conv_lhs => rw [ctr, hl]
  exact xorBytes_xorBytes _ _ (by simp [keystream_length h])

theorem foldl_macStep_length {k : List Byte} (h : aesKeyLength k.length = true) (bs : List (List Byte)) (x : List Byte)
    (hx : x.length = 16) : (bs.foldl (macStep k) x).length = 16 := by
  induction bs generalizing x with
  | nil => exact hx
  | cons b bs ih => exact ih _ (aes_length h _)

/-- The CBC-MAC chain over n blocks is any chain that starts and steps as it does (spec 41 R178). -/
theorem foldl_macStep_eq (k : List Byte) (n : Nat) (b x : List Byte) (chain : Nat → List Byte) (h0 : chain 0 = x)
    (hs : ∀ i, chain (i + 1) = aes k (xorBytes (chain i) ((b.drop (16 * i)).take 16))) :
    (takeBlocks 16 n b).foldl (macStep k) x = chain n := by
  induction n generalizing b x chain with
  | zero => simpa [takeBlocks] using h0.symm
  | succ n ih =>
    rw [takeBlocks, List.foldl_cons]
    refine ih (b.drop 16) _ (fun i => chain (i + 1)) (by rw [hs 0, h0]; rfl) fun i => ?_
    rw [hs (i + 1), List.drop_drop, Nat.mul_succ, Nat.add_comm 16]

/-- The tag has M bytes for every legal key length and M up to 16 (spec 41 R178). -/
theorem cbcMac_length {k : List Byte} (h : aesKeyLength k.length = true) (nonce : List Byte) {m : Nat} (hm : m ≤ 16)
    (aad p : List Byte) : (cbcMac k nonce m aad p).length = m := by
  have h1 := foldl_macStep_length h (aadBlocks aad) (aes k (b0Block m nonce aad p)) (aes_length h _)
  have h2 := foldl_macStep_length h (blocksOf 16 (pad16 p)) _ h1
  simp only [cbcMac, List.length_take, h2]
  omega

/-- B0 has 16 bytes for every nonce of at most 15 bytes (spec 41 R176). -/
theorem b0Block_length (m : Nat) {nonce : List Byte} (h : nonce.length ≤ 15) (aad p : List Byte) :
    (b0Block m nonce aad p).length = 16 := by
  simp [b0Block, lengthWidth]; omega

/-- A counter block has 16 bytes for every nonce of at most 15 bytes (spec 41 R179). -/
theorem counterBlock_length {nonce : List Byte} (h : nonce.length ≤ 15) (i : Nat) :
    (counterBlock nonce i).length = 16 := by
  simp [counterBlock, lengthWidth]; omega

/-- What Open answers: the plaintext exactly when the tags are equal (spec 41 R183). -/
theorem ccmOpenFn_eq_some {k nonce : List Byte} {m : Nat} {aad c t p : List Byte} :
    ccmOpenFn k nonce m aad c t = some p ↔ p = ctr k nonce c ∧ cbcMac k nonce m aad p = t := by
  simp only [ccmOpenFn]
  split
  · rename_i h; simp only [Option.some.injEq]; exact ⟨fun e => ⟨e.symm, e ▸ h⟩, fun e => e.1.symm⟩
  · rename_i h; simp only [reduceCtorEq, false_iff, not_and]; rintro rfl; exact h

/-! Operands -/

/-- The key bytes of a slot that holds a legal symmetric key have its length (spec 10 R52). -/
theorem KeySlot.keyBytes_length {k : KeySlot} (h : aesKeyLength k.klen.toNat = true) :
    k.keyBytes.length = k.klen.toNat := by
  have : k.klen.toNat = 16 ∨ k.klen.toNat = 24 ∨ k.klen.toNat = 32 := by
    simpa [aesKeyLength, or_assoc] using h
  simp only [KeySlot.keyBytes, KeySlot.bytes, List.length_take, unpack_length]; omega

/-- The latched key has CKLEN bytes (spec 10 R59). -/
theorem CcmLatch.keyBytes_length {l : CcmLatch} (h : aesKeyLength l.cklen.toNat = true) :
    l.keyBytes.length = l.cklen.toNat := by
  have : l.cklen.toNat = 16 ∨ l.cklen.toNat = 24 ∨ l.cklen.toNat = 32 := by
    simpa [aesKeyLength, or_assoc] using h
  simp only [CcmLatch.keyBytes, List.length_take, unpack_length]; omega

@[simp] theorem State.dataIn_length (s : State) : s.dataIn.length = s.len.toNat := by
  simp [State.dataIn, State.dbuf, State.bytesAt]

@[simp] theorem State.aadIn_length (s : State) : s.aadIn.length = s.alen.toNat := by
  simp [State.aadIn, State.abuf, State.bytesAt]

/-- The builder's nonce has 13 bytes (spec 42 R222). -/
@[simp] theorem buildNonce_length (a b c : Word) : (buildNonce a b c).length = 13 := by simp [buildNonce]

/-! X25519 -/

theorem fieldPrime_pos : 0 < fieldPrime := by decide

theorem fmul_lt (a b : Nat) : fmul a b < fieldPrime := Nat.mod_lt _ fieldPrime_pos

theorem fadd_lt (a b : Nat) : fadd a b < fieldPrime := Nat.mod_lt _ fieldPrime_pos

theorem fsub_lt (a b : Nat) : fsub a b < fieldPrime := Nat.mod_lt _ fieldPrime_pos

/-- The ladder's result is a field element (spec 43 R233). -/
theorem ladder_lt (k u : Nat) : ladder k u < fieldPrime := fmul_lt _ _

@[simp] theorem x25519_length (k u : List Byte) : (x25519 k u).length = 32 := leBytes_length _ _

/-- The integer a result string encodes is the ladder's (spec 43 R236). -/
theorem fromLE_x25519 (k u : List Byte) : fromLE (x25519 k u) = ladder (decodeScalar k) (decodeU u) := by
  have : ladder (decodeScalar k) (decodeU u) < 2 ^ (8 * 32) := Nat.lt_trans (ladder_lt _ _) (by decide)
  rw [x25519, fromLE_leBytes, Nat.mod_eq_of_lt this]

/-! SHA-256 -/

/-- A digest has 32 bytes (spec 44 R266). -/
@[simp] theorem sha256_length (m : List Byte) : (sha256 m).length = 32 := by simp [sha256, shaOutput]

/-- The padded message is whole blocks of 64 bytes (spec 44 R263). -/
theorem shaPad_length_mod (m : List Byte) : (shaPad m).length % 64 = 0 := by
  simp [shaPad]; omega

end Sys2Proof.Machine
end

