-- ==== Sys2Proof/Laws/Memory.lean ====
section
/-! SUPPORT. The laws of the buffers' memory: read after write, and that a write keeps the canonical form. -/

namespace Sys2Proof.Machine

open Sys2Proof

theorem cellsAt_get? (x a : Nat) (bs : List Byte) :
    (cellsAt a bs).get? x = if a ≤ x then bs[x - a]? else none := by
  induction bs generalizing a with
  | nil => simp [cellsAt, Memory.get?]
  | cons b bs ih =>
    simp only [cellsAt, Memory.get?, ih]
    rcases Nat.lt_trichotomy a x with h | h | h
    · have hx : x - a = x - (a + 1) + 1 := by omega
      simp [Nat.ne_of_lt h, Nat.succ_le_of_lt h, Nat.le_of_lt h, hx]
    · subst h; simp
    · simp [Nat.ne_of_gt h, show ¬(a + 1 ≤ x) by omega, show ¬(a ≤ x) by omega]

theorem Memory.get?_append (m n : Memory) (x : Nat) :
    Memory.get? (m ++ n) x = (m.get? x).or (n.get? x) := by
  induction m with
  | nil => simp [Memory.get?]
  | cons c m ih => obtain ⟨a, b⟩ := c; simp only [List.cons_append, Memory.get?, ih]; split <;> simp

theorem Memory.get?_filter (m : Memory) (q : Nat → Bool) (x : Nat) :
    Memory.get? (m.filter fun c => q c.1) x = if q x then m.get? x else none := by
  induction m with
  | nil => simp [Memory.get?]
  | cons c m ih =>
    obtain ⟨a, b⟩ := c
    by_cases hq : q a <;> by_cases hx : a = x <;> simp_all [Memory.get?]

/-- A read after a write: the byte written where the write went, the old one elsewhere. -/
theorem Memory.get?_write (m : Memory) (base : Nat) (bs : List Byte) (x : Nat) :
    (m.write base bs).get? x =
      if base ≤ x ∧ x < base + bs.length then bs[x - base]? else m.get? x := by
  have h1 := Memory.get?_filter m (fun a => decide (a < base)) x
  have h2 := Memory.get?_filter m (fun a => decide (base + bs.length ≤ a)) x
  simp only [Memory.write, Memory.get?_append, h1, h2, cellsAt_get?]
  by_cases hlo : base ≤ x
  · by_cases hhi : x < base + bs.length
    · have : x - base < bs.length := by omega
      simp [hlo, hhi, this, show ¬(x < base) by omega]
    · have : bs.length ≤ x - base := by omega
      simp [hlo, hhi, show ¬(x < base) by omega, show base + bs.length ≤ x by omega, this]
  · simp [hlo, show x < base by omega, show ¬(base + bs.length ≤ x) by omega]

theorem cellsAt_mem (a : Nat) (bs : List Byte) : ∀ c ∈ cellsAt a bs, a ≤ c.1 ∧ c.1 < a + bs.length := by
  induction bs generalizing a with
  | nil => simp [cellsAt]
  | cons b bs ih =>
    intro c hc
    simp only [cellsAt, List.mem_cons] at hc
    rcases hc with rfl | hc
    · simp
    · have := ih (a + 1) c hc; simp only [List.length_cons]; omega

theorem cellsAt_wf (a : Nat) (bs : List Byte) : (cellsAt a bs).wf := by
  induction bs generalizing a with
  | nil => exact List.Pairwise.nil
  | cons b bs ih =>
    refine List.Pairwise.cons (fun c hc => ?_) (ih (a + 1))
    have := cellsAt_mem (a + 1) bs c hc
    simp only; omega

/-- A write keeps the canonical form. -/
theorem Memory.wf_write {m : Memory} (h : m.wf) (base : Nat) (bs : List Byte) : (m.write base bs).wf := by
  have hc := cellsAt_mem base bs
  refine List.pairwise_append.2 ⟨List.pairwise_append.2 ⟨List.Pairwise.filter _ h, cellsAt_wf base bs, ?_⟩,
    List.Pairwise.filter _ h, ?_⟩
  · intro c hcm d hd
    have := hc d hd
    simp only [List.mem_filter, decide_eq_true_eq] at hcm
    omega
  · intro c hcm d hd
    simp only [List.mem_filter, decide_eq_true_eq] at hd
    rcases List.mem_append.1 hcm with hcm | hcm
    · simp only [List.mem_filter, decide_eq_true_eq] at hcm; omega
    · have := hc c hcm; omega

/-- The canonical form holds of the empty memory, that of the reset state. -/
theorem Memory.wf_nil : Memory.wf [] := List.Pairwise.nil

/-- The cells after a write are old cells or cells of the written range. -/
theorem Memory.mem_write {m : Memory} {base : Nat} {bs : List Byte} {c : Host.Cell} (h : c ∈ m.write base bs) :
    c ∈ m ∨ (base ≤ c.1 ∧ c.1 < base + bs.length) := by
  simp only [Memory.write, List.mem_append, List.mem_filter] at h
  rcases h with (h | h) | h
  · exact .inl h.1
  · exact .inr (cellsAt_mem base bs c h)
  · exact .inl h.1

/-- A buffer byte after a write. -/
theorem State.writeMem_byteAt (s : State) (base : Nat) (bs : List Byte) (x : Nat) :
    (s.writeMem base bs).byteAt x = if base ≤ x ∧ x < base + bs.length then bs.getD (x - base) 0 else s.byteAt x := by
  simp only [State.byteAt, State.writeMem, Memory.get?_write]
  split
  · rename_i h
    have : x - base < bs.length := by omega
    simp [this]
  · rfl

@[simp] theorem State.bytesAt_length (s : State) (base n : Nat) : (s.bytesAt base n).length = n := by
  simp [State.bytesAt]

/-- The bytes read back from the whole range of a write. -/
theorem State.writeMem_bytesAt (s : State) (base : Nat) (bs : List Byte) :
    (s.writeMem base bs).bytesAt base bs.length = bs := by
  apply List.ext_getElem
  · simp
  · intro i h1 h2
    simp [State.bytesAt, State.writeMem_byteAt, h2]

/-- Bytes outside the range of a write read as before. -/
theorem State.writeMem_bytesAt_outside (s : State) (base : Nat) (bs : List Byte) (lo n : Nat)
    (h : lo + n ≤ base ∨ base + bs.length ≤ lo) :
    (s.writeMem base bs).bytesAt lo n = s.bytesAt lo n := by
  apply List.map_congr_left
  intro i hi
  have := List.mem_range.1 hi
  rw [State.writeMem_byteAt, if_neg (by omega)]

end Sys2Proof.Machine
end

