-- ==== Sys2Proof/Laws/Completion.lean ====
section
/-! SUPPORT. The completion in the words of spec 60 R353, the tag as CCM_SEAL and CCM_TAG leave it, and restoring the
buffers. -/

namespace Sys2Proof.Machine

open Sys2Proof

/-- ERR after a completion, as spec 60 R353 words it. -/
theorem errAfter_eq (e : Bool) (c : ResultCode) : errAfter e c = if c = .ok then e else true := by
  cases c <;> simp [errAfter]

/-- A completion of a state still busy with the word w, in the words of spec 60 R353. -/
theorem State.complete_eq_ended {s u : State} {w : Word} (hs : s.seq = .busy w) (hu : u.seq = s.seq)
    (c d : ResultCode) : u.complete c d = u.ended w c d := by
  have hw : u.commandWord = w := by simp [State.commandWord, hu, hs]
  simp only [State.complete, State.ended, hw, errAfter_eq]

/-- TAG after a tag of M bytes is written: the tag, then zeros (spec 10 R55). -/
theorem tagPadded_spec {t : List Byte} (h : t.length ≤ 16) :
    (unpack 16 (pack 128 (tagPadded t))).take t.length = t ∧
      (unpack 16 (pack 128 (tagPadded t))).drop t.length = zeros (16 - t.length) := by
  have hl : (tagPadded t).length = 16 := by simp [tagPadded]; omega
  have hu := unpack_pack 128 (tagPadded t) (by rw [hl])
  rw [hl] at hu
  rw [hu]
  exact ⟨by simp [tagPadded], by simp [tagPadded]⟩

/-- The latched key of a legal, ready latch is a legal AES key (spec 10 R59). -/
theorem CcmLatch.Legal.keyLength {l : CcmLatch} (h : l.Legal) (hr : l.ready = true) :
    aesKeyLength l.keyBytes.length = true := by
  simp only [CcmLatch.Legal, hr, if_true] at h
  rw [CcmLatch.keyBytes_length h.2.1]
  exact h.2.1

/-- The latched tag size of a legal, ready latch is at most 16 (spec 41 R171). -/
theorem CcmLatch.Legal.tagSize_le {l : CcmLatch} (h : l.Legal) (hr : l.ready = true) : l.m.toNat ≤ 16 := by
  simp only [CcmLatch.Legal, hr, if_true] at h
  have hv := h.1
  simp only [validParams, Bool.and_eq_true, decide_eq_true_eq] at hv
  omega

/-- A buffer byte of a range, as its index in the bytes read from the range. -/
theorem State.bytesAt_getD (s : State) (base n i : Nat) (h : i < n) :
    (s.bytesAt base n).getD i 0 = s.byteAt (base + i) := by
  rw [List.getD_eq_getElem _ _ (by simpa using h)]
  simp [State.bytesAt]

/-- Writing back the bytes a range held restores every buffer byte, when nothing outside the range differs. -/
theorem State.writeMem_restores {s u : State} {base n : Nat} (h : SameBytesOutside base n s u) :
    SameBytes s (u.writeMem base (s.bytesAt base n)) := by
  intro a
  rw [State.writeMem_byteAt, State.bytesAt_length]
  by_cases ha : base ≤ a ∧ a < base + n
  · rw [if_pos ha, State.bytesAt_getD _ _ _ _ (by omega), Nat.add_sub_cancel' ha.1]
  · rw [if_neg ha]
    exact h a ha

end Sys2Proof.Machine
end

