-- ==== Sys2Proof/Laws/Decode.lean ====
section
/-! SUPPORT. What the decoder answers, once: the fields of an accepted word (spec 30 R111, R114). -/

namespace Sys2Proof

/-- An accepted word has its reserved bits zero (spec 30 R116). -/
theorem decode_ok_rsv {w : Word} {i : Instr} (h : decode w = .ok i) : rsvField w = 0 := by
  by_cases hr : rsvField w = 0
  · exact hr
  · rw [decode, if_pos hr] at h; cases h

/-- An accepted word is its fields' entry of the opcode map (spec 30 R114). -/
theorem decode_ok_fields {w : Word} {i : Instr} (h : decode w = .ok i) :
    decodeFields (opField w) (ksField w) (dkField w) = .ok i := by
  rw [decode, if_neg (not_not.2 (decode_ok_rsv h))] at h
  exact h

/-- The opcode map, read backwards: every accepted triple of fields is its command's own (spec 30 R114). -/
def fieldsAgree (op : BitVec 8) (ks dk : Bool) : Bool :=
  match decodeFields op ks dk with
  | .ok i => op == i.opcode && ks == i.ksBit && dk == i.dkBit && i.wf
  | .error _ => true

theorem fieldsAgree_all : ∀ n : Fin 256, ∀ ks dk : Bool, fieldsAgree (BitVec.ofFin n) ks dk = true := by
  decide +kernel

/-- What an accepted triple of fields says of its command (spec 30 R114). -/
theorem decodeFields_ok {op : BitVec 8} {ks dk : Bool} {i : Instr} (h : decodeFields op ks dk = .ok i) :
    op = i.opcode ∧ ks = i.ksBit ∧ dk = i.dkBit ∧ i.wf = true := by
  have ha : fieldsAgree op ks dk = true := fieldsAgree_all op.toFin ks dk
  simpa [fieldsAgree, h, and_assoc] using ha

/-- An accepted word's OP field is its command's opcode (spec 30 R114). -/
theorem decode_ok_opcode {w : Word} {i : Instr} (h : decode w = .ok i) : opField w = i.opcode :=
  (decodeFields_ok (decode_ok_fields h)).1

end Sys2Proof
end

