-- ==== Sys2Proof/Laws/Exec.lean ====
section
/-! SUPPORT. What each meaning can do, once: the cases of its answer, the checks that choose among them, and the fields
no command ever changes (spec 00 R16, spec 60 R353). -/

namespace Sys2Proof.Machine

open Sys2Proof

/-! The input checks -/

/-- The CCM input checks pass exactly when the engine is constructed and the lengths fit (spec 41 R185). -/
theorem State.ccmInputCheck_none (s : State) :
    s.ccmInputCheck = none ↔
      s.latch.ready = true ∧ s.len.toNat ≤ s.params.dbufBytes ∧ s.alen.toNat ≤ s.params.abufBytes ∧ s.len ≠ 0 := by
  simp only [State.ccmInputCheck, State.lenTooBig, State.alenTooBig]
  cases s.latch.ready
  · simp
  · by_cases h1 : s.params.dbufBytes < s.len.toNat
    · simp [h1, Nat.not_le.2 h1]
    · by_cases h2 : s.params.abufBytes < s.alen.toNat
      · simp [h2, Nat.not_le.2 h2]
      · simp [h1, h2, Nat.not_lt.1 h1, Nat.not_lt.1 h2]

/-- CTR_XOR's input checks pass exactly when the engine is constructed and LEN fits (spec 41 R189). -/
theorem State.ctrInputCheck_none (s : State) :
    s.ctrInputCheck = none ↔ s.latch.ready = true ∧ s.len.toNat ≤ s.params.dbufBytes := by
  simp only [State.ctrInputCheck, State.lenTooBig]
  cases s.latch.ready <;> simp

/-- A failing CCM input check answers INVALID_PARAMETERS or INVALID_INPUT (spec 41 R185). -/
theorem State.ccmInputCheck_some {s : State} {c : ResultCode} (h : s.ccmInputCheck = some c) :
    c = .invalidParameters ∨ c = .invalidInput := by
  simp only [State.ccmInputCheck] at h
  split at h
  · exact .inl (by simpa using h.symm)
  · split at h
    · exact .inr (by simpa using h.symm)
    · split at h
      · exact .inr (by simpa using h.symm)
      · simp at h

/-- A failing CTR_XOR input check answers INVALID_PARAMETERS or INVALID_INPUT (spec 41 R189). -/
theorem State.ctrInputCheck_some {s : State} {c : ResultCode} (h : s.ctrInputCheck = some c) :
    c = .invalidParameters ∨ c = .invalidInput := by
  simp only [State.ctrInputCheck] at h
  split at h
  · exact .inl (by simpa using h.symm)
  · split at h
    · exact .inr (by simpa using h.symm)
    · simp at h

/-! The meanings -/

/-- What CCM_NEW does with a key source (spec 41 R172). -/
theorem State.ccmNewFrom_cases (s : State) (ok : Bool) (k : List Byte) :
    (validParams s.tagSize.toNat s.nonceSize.toNat = true ∧ ok = true ∧
        s.ccmNewFrom ok k = (s.withLatch (s.newLatch k)).complete .ok .ok) ∨
      (¬(validParams s.tagSize.toNat s.nonceSize.toNat = true ∧ ok = true) ∧
        s.ccmNewFrom ok k = (s.withLatch CcmLatch.reset).complete .invalidParameters .invalidParameters) := by
  simp only [State.ccmNewFrom]
  split
  · rename_i h
    simp only [Bool.and_eq_true] at h
    exact .inl ⟨h.1, h.2, rfl⟩
  · rename_i h
    simp only [Bool.and_eq_true] at h
    exact .inr ⟨h, rfl⟩

/-- What CCM_SEAL does (spec 41 R186). -/
theorem execCcmSeal_cases (s : State) :
    (∃ c, s.ccmInputCheck = some c ∧ execCcmSeal s = .next ((s.withOlen 0).complete c c)) ∨
      (s.ccmInputCheck = none ∧
        execCcmSeal s = .next
          ((((s.writeMem dbufBase (ctr s.latch.keyBytes s.nonceOperand s.dataIn)).withTag
            (tagPadded (cbcMac s.latch.keyBytes s.nonceOperand s.latch.m.toNat s.aadIn s.dataIn))).withOlen
              s.len).complete .ok .ok)) := by
  cases h : s.ccmInputCheck with
  | some c => exact .inl ⟨c, rfl, by simp [execCcmSeal, h]⟩
  | none => exact .inr ⟨rfl, by simp [execCcmSeal, h, ccmSealFn]⟩

/-- What CCM_OPEN does (spec 41 R187). -/
theorem execCcmOpen_cases (s : State) :
    (∃ c, s.ccmInputCheck = some c ∧ execCcmOpen s = .next ((s.withOlen 0).complete c c)) ∨
      (s.ccmInputCheck = none ∧
        ccmOpenFn s.latch.keyBytes s.nonceOperand s.latch.m.toNat s.aadIn s.dataIn s.tagOperand = none ∧
        execCcmOpen s = .next ((s.withOlen 0).complete .authenticationFailed .authenticationFailed)) ∨
      (∃ p, s.ccmInputCheck = none ∧
        ccmOpenFn s.latch.keyBytes s.nonceOperand s.latch.m.toNat s.aadIn s.dataIn s.tagOperand = some p ∧
        execCcmOpen s = .next (((s.writeMem dbufBase p).withOlen s.len).complete .ok .ok)) := by
  cases h : s.ccmInputCheck with
  | some c => exact .inl ⟨c, rfl, by simp [execCcmOpen, h]⟩
  | none =>
    cases h2 : ccmOpenFn s.latch.keyBytes s.nonceOperand s.latch.m.toNat s.aadIn s.dataIn s.tagOperand with
    | none => exact .inr (.inl ⟨rfl, rfl, by simp [execCcmOpen, h, h2]⟩)
    | some p => exact .inr (.inr ⟨p, rfl, rfl, by simp [execCcmOpen, h, h2]⟩)

/-- What CCM_TAG does (spec 41 R188). -/
theorem execCcmTag_cases (s : State) :
    (∃ c, s.ccmInputCheck = some c ∧ execCcmTag s = .next (s.complete c c)) ∨
      (s.ccmInputCheck = none ∧
        execCcmTag s = .next
          ((s.withTag (tagPadded (cbcMac s.latch.keyBytes s.nonceOperand s.latch.m.toNat s.aadIn s.dataIn))).complete
            .ok .ok)) := by
  cases h : s.ccmInputCheck with
  | some c => exact .inl ⟨c, rfl, by simp [execCcmTag, h]⟩
  | none => exact .inr ⟨rfl, by simp [execCcmTag, h]⟩

/-- What CTR_XOR does (spec 41 R189). -/
theorem execCtrXor_cases (s : State) :
    (∃ c, s.ctrInputCheck = some c ∧ execCtrXor s = .next ((s.withOlen 0).complete c c)) ∨
      (s.ctrInputCheck = none ∧
        execCtrXor s = .next
          (((s.writeMem dbufBase (ctr s.latch.keyBytes s.nonceOperand s.dataIn)).withOlen s.len).complete .ok .ok)) := by
  cases h : s.ctrInputCheck with
  | some c => exact .inl ⟨c, rfl, by simp [execCtrXor, h]⟩
  | none => exact .inr ⟨rfl, by simp [execCtrXor, h]⟩

/-- What X25519_BASE does (spec 43 R240). -/
theorem execX25519Base_cases (ks : SlotSel) (s : State) :
    ((s.slot ks).privOk = true ∧
        execX25519Base ks s = .next ((s.withOut (publicFromPrivate (s.slot ks).bytes)).complete .ok .ok)) ∨
      ((s.slot ks).privOk = false ∧
        execX25519Base ks s = .next (s.complete .invalidParameters .invalidParameters)) := by
  cases h : (s.slot ks).privOk
  · exact .inr ⟨rfl, by simp [execX25519Base, h]⟩
  · exact .inl ⟨rfl, by simp [execX25519Base, h]⟩

/-- What X25519 does (spec 43 R241). -/
theorem execX25519_cases (s : State) :
    (s.slot0.privOk = true ∧ s.slot1.pubOk = true ∧ x25519 s.slot0.bytes s.slot1.bytes = zeros 32 ∧
        execX25519 s = .next
          ((s.withOut (x25519 s.slot0.bytes s.slot1.bytes)).complete .keyAgreementFailed .keyAgreementFailed)) ∨
      (s.slot0.privOk = true ∧ s.slot1.pubOk = true ∧ x25519 s.slot0.bytes s.slot1.bytes ≠ zeros 32 ∧
        execX25519 s = .next ((s.withOut (x25519 s.slot0.bytes s.slot1.bytes)).complete .ok .ok)) ∨
      (¬(s.slot0.privOk = true ∧ s.slot1.pubOk = true) ∧
        execX25519 s = .next (s.complete .invalidParameters .invalidParameters)) := by
  by_cases hk : s.slot0.privOk = true ∧ s.slot1.pubOk = true
  · obtain ⟨h0, h1⟩ := hk
    by_cases hz : x25519 s.slot0.bytes s.slot1.bytes = zeros 32
    · exact .inl ⟨h0, h1, hz, by simp [execX25519, h0, h1, hz]⟩
    · exact .inr (.inl ⟨h0, h1, hz, by simp [execX25519, h0, h1, hz]⟩)
  · exact .inr (.inr ⟨hk, by simp only [execX25519, Bool.and_eq_true, if_neg hk, State.completeWith_eq]⟩)

/-- What DERIVE_KEY does (spec 45 R293). -/
theorem execDeriveKey_cases (s : State) :
    (∃ k, s.slot0.privOk = true ∧ s.slot1.peerOk = true ∧
        deriveSharedKey s.slot0.bytes s.slot1.peerPublic = some k ∧
        execDeriveKey s = .next ((s.withDkey k true).complete .ok .ok)) ∨
      (s.slot0.privOk = true ∧ s.slot1.peerOk = true ∧
        deriveSharedKey s.slot0.bytes s.slot1.peerPublic = none ∧
        execDeriveKey s = .next
          ((s.withDkey (zeros 32) false).complete .keyAgreementFailed .keyAgreementFailed)) ∨
      (¬(s.slot0.privOk = true ∧ s.slot1.peerOk = true) ∧
        execDeriveKey s = .next
          ((s.withDkey (zeros 32) false).complete .invalidParameters .invalidParameters)) := by
  by_cases hk : s.slot0.privOk = true ∧ s.slot1.peerOk = true
  · obtain ⟨h0, h1⟩ := hk
    cases hd : deriveSharedKey s.slot0.bytes s.slot1.peerPublic with
    | some k => exact .inl ⟨k, h0, h1, rfl, by simp [execDeriveKey, h0, h1, hd]⟩
    | none => exact .inr (.inl ⟨h0, h1, rfl, by simp [execDeriveKey, h0, h1, hd]⟩)
  · exact .inr (.inr ⟨hk, by simp only [execDeriveKey, Bool.and_eq_true, if_neg hk, State.completeWith_eq]⟩)

/-- What SHA256 does (spec 44 R267). -/
theorem execSha256_cases (s : State) :
    (s.params.dbufBytes < s.len.toNat ∧ execSha256 s = .next (s.complete .invalidInput .invalidInput)) ∨
      (s.len.toNat ≤ s.params.dbufBytes ∧
        execSha256 s = .next ((s.withDigest (sha256 s.dataIn)).complete .ok .ok)) := by
  by_cases h : s.params.dbufBytes < s.len.toNat
  · exact .inl ⟨h, by simp [execSha256, State.lenTooBig, h]⟩
  · exact .inr ⟨Nat.not_lt.1 h, by simp [execSha256, State.lenTooBig, h]⟩

/-- What DISPATCH does (spec 46 R312). -/
theorem execDispatch_cases (s : State) :
    (s.params.dbufBytes < s.len.toNat ∧
        execDispatch s = .next ((s.withOlen 0).complete .invalidInput .invalidInput)) ∨
      (s.len.toNat ≤ s.params.dbufBytes ∧ s.variant = 0 ∧
        execDispatch s = .next ((s.withOlen s.len).complete .ok .ok)) ∨
      (s.len.toNat ≤ s.params.dbufBytes ∧ s.variant ≠ 0 ∧ s.variant ≠ 1 ∧
        execDispatch s = .next ((s.withOlen 0).complete .unknownPayloadVariant .unknownPayloadVariant)) ∨
      (∃ c, s.len.toNat ≤ s.params.dbufBytes ∧ s.variant = 1 ∧ s.encryptedPath = .error c ∧
        execDispatch s = .next ((s.withOlen 0).complete .decryptFailed c)) ∨
      (∃ p, s.len.toNat ≤ s.params.dbufBytes ∧ s.variant = 1 ∧ s.encryptedPath = .ok p ∧
        execDispatch s = .next
          (((s.writeMem dbufBase p).withOlen (BitVec.ofNat 16 p.length)).complete .ok .ok)) := by
  by_cases h : s.params.dbufBytes < s.len.toNat
  · exact .inl ⟨h, by simp [execDispatch, State.lenTooBig, h]⟩
  have hl := Nat.not_lt.1 h
  by_cases h0 : s.variant = 0
  · exact .inr (.inl ⟨hl, h0, by simp [execDispatch, State.lenTooBig, h, h0]⟩)
  by_cases h1 : s.variant = 1
  · cases hp : s.encryptedPath with
    | error c =>
      exact .inr (.inr (.inr (.inl ⟨c, hl, h1, rfl, by
        simp [execDispatch, State.lenTooBig, h, h1, hp, State.finishPath]⟩)))
    | ok p =>
      exact .inr (.inr (.inr (.inr ⟨p, hl, h1, rfl, by
        simp [execDispatch, State.lenTooBig, h, h1, hp, State.finishPath]⟩)))
  · exact .inr (.inr (.inl ⟨hl, h0, h1, by
      simp only [execDispatch, State.lenTooBig, h, decide_false, Bool.false_eq_true, if_false, if_neg h0, if_neg h1,
        State.completeWith_eq]⟩))

/-- What the channel path answers (spec 46 R315). -/
theorem channelPath_cases (k0 : KeySlot) (pktid sender : Word) (d : List Byte) :
    (k0.type ≠ .sym ∧ channelPath k0 pktid sender d = .error .keyNotFound) ∨
      (k0.type = .sym ∧ aesKeyLength k0.klen.toNat = false ∧
        channelPath k0 pktid sender d = .error .invalidParameters) ∨
      (k0.symOk = true ∧ channelPath k0 pktid sender d = .ok (ctr k0.keyBytes (buildNonce pktid sender 0) d)) := by
  by_cases ht : k0.type = .sym
  · cases hl : aesKeyLength k0.klen.toNat
    · exact .inr (.inl ⟨ht, rfl, by simp [channelPath, ht, hl]⟩)
    · exact .inr (.inr ⟨by simp [KeySlot.symOk, ht, hl], by simp [channelPath, ht, hl]⟩)
  · exact .inl ⟨ht, by simp [channelPath, ht]⟩

/-- A derived key has 32 bytes (spec 45 R291). -/
theorem deriveSharedKey_length {a b k : List Byte} (h : deriveSharedKey a b = some k) : k.length = 32 := by
  unfold deriveSharedKey at h
  by_cases hz : x25519 a b = zeros 32
  · simp [hz] at h
  · simp only [hz, if_false, Option.some.injEq] at h
    rw [← h]; exact sha256_length _

/-- What the direct path does after its key checks (spec 46 R316). -/
theorem openDirect_cases (k0 k1 : KeySlot) (pktid sender : Word) (parts : DirectParts) :
    (deriveSharedKey k0.bytes k1.peerPublic = none ∧
        openDirect k0 k1 pktid sender parts = .error .keyAgreementFailed) ∨
      ∃ k, deriveSharedKey k0.bytes k1.peerPublic = some k ∧
        ((parts.ciphertext = [] ∧ openDirect k0 k1 pktid sender parts = .error .invalidInput) ∨
          (parts.ciphertext ≠ [] ∧
            ccmOpenFn k (buildNonce pktid sender parts.extraNonce) 8 [] parts.ciphertext parts.mac = none ∧
            openDirect k0 k1 pktid sender parts = .error .authenticationFailed) ∨
          (∃ p, parts.ciphertext ≠ [] ∧
            ccmOpenFn k (buildNonce pktid sender parts.extraNonce) 8 [] parts.ciphertext parts.mac = some p ∧
            openDirect k0 k1 pktid sender parts = .ok p)) := by
  unfold openDirect
  cases hk : deriveSharedKey k0.bytes k1.peerPublic with
  | none => exact .inl ⟨rfl, rfl⟩
  | some k =>
    refine .inr ⟨k, rfl, ?_⟩
    by_cases hc : parts.ciphertext = []
    · exact .inl ⟨hc, by simp [hc]⟩
    · cases ho : ccmOpenFn k (buildNonce pktid sender parts.extraNonce) 8 [] parts.ciphertext parts.mac with
      | none => exact .inr (.inl ⟨hc, rfl, by simp [hc, ho]⟩)
      | some p => exact .inr (.inr ⟨p, hc, rfl, by simp [hc, ho]⟩)

/-- A plaintext the direct path recovers is 12 bytes shorter than the payload (spec 46 R316, R317). -/
theorem directPath_ok {k0 k1 : KeySlot} {pktid sender : Word} {d p : List Byte}
    (h : directPath k0 k1 pktid sender d = .ok p) :
    12 ≤ d.length ∧ p.length = d.length - 12 := by
  unfold directPath at h
  by_cases hlen : d.length < 12
  · simp [hlen] at h
  refine ⟨Nat.not_lt.1 hlen, ?_⟩
  rw [if_neg hlen] at h
  cases hc : directKeyCheck k0 k1 with
  | some c => simp [hc] at h
  | none =>
    simp only [hc] at h
    rcases openDirect_cases k0 k1 pktid sender (splitTrailer d) with
      ⟨_, h2⟩ | ⟨k, hk, ⟨_, h2⟩ | ⟨_, _, h2⟩ | ⟨q, _, ho, h2⟩⟩
    · simp [h2] at h
    · simp [h2] at h
    · simp [h2] at h
    · rw [h2] at h
      have hk32 := deriveSharedKey_length hk
      rw [← Except.ok.inj h, (ccmOpenFn_eq_some.1 ho).1, ctr_length (by rw [hk32]; decide)]
      simp [splitTrailer]

/-- The bytes an encrypted path recovers fit in DBUF[0..LEN) (spec 46 R320). -/
theorem State.encryptedPath_ok {s : State} {p : List Byte} (h : s.encryptedPath = .ok p) :
    p.length ≤ s.len.toNat := by
  simp only [State.encryptedPath] at h
  split at h
  · have := directPath_ok h; rw [State.dataIn_length] at this; omega
  · rcases channelPath_cases s.slot0 s.pktid s.sender s.dataIn with ⟨_, h2⟩ | ⟨_, _, h2⟩ | ⟨hk, h2⟩
    · simp [h2] at h
    · simp [h2] at h
    · rw [h2] at h
      simp only [KeySlot.symOk, Bool.and_eq_true] at hk
      have hl := KeySlot.keyBytes_length hk.2
      rw [← Except.ok.inj h, ctr_length (by rw [hl]; exact hk.2), State.dataIn_length]

/-! The fields no command changes -/

/-- The fields that every command keeps (spec 00 R16): parameters, the host's side, the draws, CTRL, CMD, WIGN, the
operand registers. -/
structure Kept (s u : State) : Prop where
  params : u.params = s.params
  host : u.host = s.host
  draws : u.draws = s.draws
  bufDraw : u.bufDraw = s.bufDraw
  seq : u.seq = s.seq
  irqEn : u.irqEn = s.irqEn
  cmd : u.cmd = s.cmd
  done : u.done = s.done
  err : u.err = s.err
  wign : u.wign = s.wign
  len : u.len = s.len
  alen : u.alen = s.alen
  tagSize : u.tagSize = s.tagSize
  nonceSize : u.nonceSize = s.nonceSize
  pktid : u.pktid = s.pktid
  sender : u.sender = s.sender
  xnonce : u.xnonce = s.xnonce
  variant : u.variant = s.variant
  route : u.route = s.route

theorem Kept.commandWord {s u : State} (h : Kept s u) : u.commandWord = s.commandWord := by
  simp [State.commandWord, h.seq, h.cmd]

theorem Kept.refl (s : State) : Kept s s := by constructor <;> rfl

theorem Kept.withOlen {s u : State} (h : Kept s u) (n : BitVec 16) : Kept s (u.withOlen n) :=
  ⟨h.params, h.host, h.draws, h.bufDraw, h.seq, h.irqEn, h.cmd, h.done, h.err, h.wign, h.len, h.alen,
    h.tagSize, h.nonceSize, h.pktid, h.sender, h.xnonce, h.variant, h.route⟩

theorem Kept.withTag {s u : State} (h : Kept s u) (b : List Byte) : Kept s (u.withTag b) :=
  ⟨h.params, h.host, h.draws, h.bufDraw, h.seq, h.irqEn, h.cmd, h.done, h.err, h.wign, h.len, h.alen,
    h.tagSize, h.nonceSize, h.pktid, h.sender, h.xnonce, h.variant, h.route⟩

theorem Kept.withNonce {s u : State} (h : Kept s u) (b : List Byte) : Kept s (u.withNonce b) :=
  ⟨h.params, h.host, h.draws, h.bufDraw, h.seq, h.irqEn, h.cmd, h.done, h.err, h.wign, h.len, h.alen,
    h.tagSize, h.nonceSize, h.pktid, h.sender, h.xnonce, h.variant, h.route⟩

theorem Kept.withOut {s u : State} (h : Kept s u) (b : List Byte) : Kept s (u.withOut b) :=
  ⟨h.params, h.host, h.draws, h.bufDraw, h.seq, h.irqEn, h.cmd, h.done, h.err, h.wign, h.len, h.alen,
    h.tagSize, h.nonceSize, h.pktid, h.sender, h.xnonce, h.variant, h.route⟩

theorem Kept.withDigest {s u : State} (h : Kept s u) (b : List Byte) : Kept s (u.withDigest b) :=
  ⟨h.params, h.host, h.draws, h.bufDraw, h.seq, h.irqEn, h.cmd, h.done, h.err, h.wign, h.len, h.alen,
    h.tagSize, h.nonceSize, h.pktid, h.sender, h.xnonce, h.variant, h.route⟩

theorem Kept.withDkey {s u : State} (h : Kept s u) (b : List Byte) (v : Bool) : Kept s (u.withDkey b v) :=
  ⟨h.params, h.host, h.draws, h.bufDraw, h.seq, h.irqEn, h.cmd, h.done, h.err, h.wign, h.len, h.alen,
    h.tagSize, h.nonceSize, h.pktid, h.sender, h.xnonce, h.variant, h.route⟩

theorem Kept.withLatch {s u : State} (h : Kept s u) (l : CcmLatch) : Kept s (u.withLatch l) :=
  ⟨h.params, h.host, h.draws, h.bufDraw, h.seq, h.irqEn, h.cmd, h.done, h.err, h.wign, h.len, h.alen,
    h.tagSize, h.nonceSize, h.pktid, h.sender, h.xnonce, h.variant, h.route⟩

theorem Kept.writeMem {s u : State} (h : Kept s u) (o : Nat) (b : List Byte) : Kept s (u.writeMem o b) :=
  ⟨h.params, h.host, h.draws, h.bufDraw, h.seq, h.irqEn, h.cmd, h.done, h.err, h.wign, h.len, h.alen,
    h.tagSize, h.nonceSize, h.pktid, h.sender, h.xnonce, h.variant, h.route⟩

theorem Kept.zeroKeys {s u : State} (h : Kept s u) : Kept s u.zeroKeys :=
  ⟨h.params, h.host, h.draws, h.bufDraw, h.seq, h.irqEn, h.cmd, h.done, h.err, h.wign, h.len, h.alen,
    h.tagSize, h.nonceSize, h.pktid, h.sender, h.xnonce, h.variant, h.route⟩

theorem Kept.zeroBuffers {s u : State} (h : Kept s u) : Kept s u.zeroBuffers :=
  (h.writeMem _ _).writeMem _ _

/-- Every command's answer is a completion of a state that keeps those fields (spec 60 R353, R354). -/
theorem exec_form (i : Instr) (s : State) :
    ∃ u c d, exec i s = .next (u.complete c d) ∧ Kept s u := by
  have r := Kept.refl s
  cases i with
  | nop => exact ⟨_, _, _, rfl, r⟩
  | ccmNew ks dk =>
    have new : ∀ ok k, ∃ u c d, s.ccmNewFrom ok k = u.complete c d ∧ Kept s u := by
      intro ok k
      rcases s.ccmNewFrom_cases ok k with ⟨_, _, h⟩ | ⟨_, h⟩
      · exact ⟨_, _, _, h, r.withLatch _⟩
      · exact ⟨_, _, _, h, r.withLatch _⟩
    cases dk with
    | false =>
      obtain ⟨u, c, d, h, hk⟩ := new (s.slot ks).symOk (s.slot ks).keyBytes
      exact ⟨u, c, d, by rw [← h]; rfl, hk⟩
    | true =>
      cases ks with
      | slot0 =>
        obtain ⟨u, c, d, h, hk⟩ := new s.dkeyValid s.dkeyBytes
        exact ⟨u, c, d, by rw [← h]; rfl, hk⟩
      | slot1 => exact ⟨_, _, _, rfl, r⟩
  | ccmSeal =>
    rcases execCcmSeal_cases s with ⟨c, _, h⟩ | ⟨_, h⟩
    · exact ⟨_, _, _, h, r.withOlen _⟩
    · exact ⟨_, _, _, h, ((r.writeMem _ _).withTag _).withOlen _⟩
  | ccmOpen =>
    rcases execCcmOpen_cases s with ⟨c, _, h⟩ | ⟨_, _, h⟩ | ⟨p, _, _, h⟩
    · exact ⟨_, _, _, h, r.withOlen _⟩
    · exact ⟨_, _, _, h, r.withOlen _⟩
    · exact ⟨_, _, _, h, (r.writeMem _ _).withOlen _⟩
  | ccmTag =>
    rcases execCcmTag_cases s with ⟨c, _, h⟩ | ⟨_, h⟩
    · exact ⟨_, _, _, h, r⟩
    · exact ⟨_, _, _, h, r.withTag _⟩
  | ctrXor =>
    rcases execCtrXor_cases s with ⟨c, _, h⟩ | ⟨_, h⟩
    · exact ⟨_, _, _, h, r.withOlen _⟩
    · exact ⟨_, _, _, h, (r.writeMem _ _).withOlen _⟩
  | nonceBuild => exact ⟨_, _, _, rfl, r.withNonce _⟩
  | x25519Base ks =>
    rcases execX25519Base_cases ks s with ⟨_, h⟩ | ⟨_, h⟩
    · exact ⟨_, _, _, h, r.withOut _⟩
    · exact ⟨_, _, _, h, r⟩
  | x25519 =>
    rcases execX25519_cases s with ⟨_, _, _, h⟩ | ⟨_, _, _, h⟩ | ⟨_, h⟩
    · exact ⟨_, _, _, h, r.withOut _⟩
    · exact ⟨_, _, _, h, r.withOut _⟩
    · exact ⟨_, _, _, h, r⟩
  | deriveKey =>
    rcases execDeriveKey_cases s with ⟨k, _, _, _, h⟩ | ⟨_, _, _, h⟩ | ⟨_, h⟩
    · exact ⟨_, _, _, h, r.withDkey _ _⟩
    · exact ⟨_, _, _, h, r.withDkey _ _⟩
    · exact ⟨_, _, _, h, r.withDkey _ _⟩
  | sha256 =>
    rcases execSha256_cases s with ⟨_, h⟩ | ⟨_, h⟩
    · exact ⟨_, _, _, h, r⟩
    · exact ⟨_, _, _, h, r.withDigest _⟩
  | dispatch =>
    rcases execDispatch_cases s with ⟨_, h⟩ | ⟨_, _, h⟩ | ⟨_, _, _, h⟩ | ⟨c, _, _, _, h⟩ | ⟨p, _, _, _, h⟩
    · exact ⟨_, _, _, h, r.withOlen _⟩
    · exact ⟨_, _, _, h, r.withOlen _⟩
    · exact ⟨_, _, _, h, r.withOlen _⟩
    · exact ⟨_, _, _, h, r.withOlen _⟩
    · exact ⟨_, _, _, h, (r.writeMem _ _).withOlen _⟩
  | zeroize => exact ⟨_, _, _, rfl, r.zeroKeys.zeroBuffers.withOlen _⟩

end Sys2Proof.Machine
end

