-- ==== Sys2Proof/Laws/PerInstr.lean ====
section
/-! SUPPORT. Facts stated per command: the fields of each command's word are those of its row of the opcode map (spec 30
R111, R114). -/

namespace Sys2Proof.Laws.EncodingFields

open Sys2Proof

/-- The command word's RSV, OP, KS and DK fields are zero, the opcode, and the row's two bits (spec 30 R111, R114). -/
def Statement (i : Instr) : Prop :=
  rsvField (encode i) = 0 ∧ opField (encode i) = i.opcode ∧ ksField (encode i) = i.ksBit ∧
    dkField (encode i) = i.dkBit

theorem nop : Statement .nop := by unfold Statement; decide

theorem ccmNew (ks : SlotSel) (dk : Bool) : Statement (.ccmNew ks dk) := by
  unfold Statement; cases ks <;> cases dk <;> decide

theorem ccmSeal : Statement .ccmSeal := by unfold Statement; decide

theorem ccmOpen : Statement .ccmOpen := by unfold Statement; decide

theorem ccmTag : Statement .ccmTag := by unfold Statement; decide

theorem ctrXor : Statement .ctrXor := by unfold Statement; decide

theorem nonceBuild : Statement .nonceBuild := by unfold Statement; decide

theorem x25519Base (ks : SlotSel) : Statement (.x25519Base ks) := by
  unfold Statement; cases ks <;> decide

theorem x25519 : Statement .x25519 := by unfold Statement; decide

theorem deriveKey : Statement .deriveKey := by unfold Statement; decide

theorem sha256 : Statement .sha256 := by unfold Statement; decide

theorem dispatch : Statement .dispatch := by unfold Statement; decide

theorem zeroize : Statement .zeroize := by unfold Statement; decide

end Sys2Proof.Laws.EncodingFields
end

