-- ==== Sys2Proof/Laws/Step.lean ====
section
/-! SUPPORT. What one step can do, once: the cases of a step's answer, of a bus access and of the soft reset (spec 20,
spec 70 R383, R384, R395). -/

namespace Sys2Proof.Machine

open Sys2Proof

/-- What the engine does with a word: its command's meaning, or the completion of an illegal word. -/
theorem runWord_cases (w : Word) (s : State) :
    (∃ i, decode w = .ok i ∧ runWord w s = exec i s) ∨
      (∃ e, decode w = .error e ∧ runWord w s = .next (s.complete .illegalCommand .illegalCommand)) := by
  cases h : decode w with
  | ok i => exact .inl ⟨i, rfl, by simp [runWord, h]⟩
  | error e => exact .inr ⟨e, rfl, by simp [runWord, h]⟩

/-- What the soft reset does, idle and busy (spec 70 R383, R384). -/
theorem State.softReset_cases (s : State) :
    (s.busy = true ∧ s.softReset = s.powerOnReset) ∨
      (s.busy = false ∧
        s.softReset = { s.powerOnReset with mem := s.mem, bufDraw := s.bufDraw, draws := s.draws }) := by
  cases h : s.busy
  · exact .inr ⟨rfl, by simp [State.softReset, h]⟩
  · exact .inl ⟨rfl, by simp [State.softReset, h]⟩

/-- What a read answers: the register's value, or a free draw (spec 20 R93). -/
theorem State.hostRead_cases (s : State) (off : Nat) :
    (¬(s.busy = true ∧ (regAt s.params off).readableBusy = false) ∧
        s.hostRead off = s.answer (.data (s.readReg (regAt s.params off)))) ∨
      (s.busy = true ∧ (regAt s.params off).readableBusy = false ∧
        s.hostRead off = State.answer { s with draws := s.draws + 1 } (.data (Config.busyRead s.draws))) := by
  cases hb : s.busy <;> cases hr : (regAt s.params off).readableBusy <;> simp [State.hostRead, hb, hr]

/-- What an access does when it does not fault (spec 20 R81, R82). -/
theorem hostAccess_cases {a : Access} {s t : State} (h : hostAccess a s = .next t) :
    ∃ off, a.offset s.params = some off ∧
      ((a.wellShaped off = true ∧ a.kind = .read ∧ t = s.hostRead off) ∨
        (∃ m w, a.wellShaped off = true ∧ a.kind = .write m w ∧ t = s.hostWrite off w) ∨
        (a.wellShaped off = false ∧ t = s.answer .busError)) := by
  unfold hostAccess at h
  cases ho : a.offset s.params with
  | none => simp [ho] at h
  | some off =>
    simp only [ho] at h
    refine ⟨off, rfl, ?_⟩
    cases hw : a.wellShaped off with
    | false =>
      simp only [hw, Bool.false_eq_true, if_false, Host.Outcome.next.injEq] at h
      exact .inr (.inr ⟨rfl, h.symm⟩)
    | true =>
      simp only [hw, if_true] at h
      cases hk : a.kind with
      | read => simp only [hk, Host.Outcome.next.injEq] at h; exact .inl ⟨rfl, rfl, h.symm⟩
      | write m w => simp only [hk, Host.Outcome.next.injEq] at h; exact .inr (.inl ⟨m, w, rfl, rfl, h.symm⟩)

/-- The offset of an access is in the window (spec 20 R80). -/
theorem Access.offset_lt {p : Params} {a : Access} {off : Nat} (h : a.offset p = some off) : off < 4096 := by
  unfold Access.offset at h
  split at h
  · rw [← Option.some.inj h]; omega
  · cases h

/-- What one step can do, with s' the state the event was taken from (spec 10 R30, spec 70 R395): nothing, the engine's
turn, a read, a write, a bus error, or the power-on reset. -/
inductive StepCase (s t : State) : Prop where
  /-- Nothing: the sequencer is idle and has the turn. -/
  | rest (es : List HostEvent) (idle : s.seq = .idle) (eq : t = s.withPending es)
  /-- The engine completes the running command. -/
  | engine (es : List HostEvent) (w : Word) (busy : s.seq = .busy w) (run : runWord w (s.withPending es) = .next t)
  /-- The host reads. -/
  | read (es : List HostEvent) (off : Nat) (eq : t = (s.withPending es).hostRead off)
  /-- The host writes. -/
  | write (es : List HostEvent) (off : Nat) (w : Word) (aligned : off % 4 = 0) (inWindow : off < 4096)
      (eq : t = (s.withPending es).hostWrite off w)
  /-- The host's access gets a bus error. -/
  | busError (es : List HostEvent) (eq : t = (s.withPending es).answer .busError)
  /-- The platform resets GQE. -/
  | powerOn (es : List HostEvent) (eq : t = (s.withPending es).powerOnReset)

theorem engineTurn_case {s t : State} (es : List HostEvent) (h : engineTurn (s.withPending es) = .next t) :
    StepCase s t := by
  unfold engineTurn at h
  cases hs : s.seq with
  | idle => simp only [State.withPending_seq, hs, Host.Outcome.next.injEq] at h; exact .rest es hs h.symm
  | busy w => simp only [State.withPending_seq, hs] at h; exact .engine es w hs h

/-- The cases of one step. -/
theorem step_cases {s t : State} (h : step s = .next t) : StepCase s t := by
  have same : s.withPending s.host.pending = s := rfl
  unfold step at h
  cases hp : s.host.pending with
  | nil =>
    simp only [hp] at h
    exact engineTurn_case [] (by rw [← hp, same]; exact h)
  | cons e rest =>
    simp only [hp] at h
    cases e with
    | access a =>
      simp only [takeEvent] at h
      obtain ⟨off, ho, ⟨_, _, ht⟩ | ⟨m, w, hw, _, ht⟩ | ⟨_, ht⟩⟩ := hostAccess_cases h
      · exact .read rest off ht
      · refine .write rest off w ?_ (Access.offset_lt ho) ht
        simp only [Access.wellShaped, Bool.and_eq_true, beq_iff_eq] at hw
        exact hw.1.2
      · exact .busError rest ht
    | wait polls =>
      simp only [takeEvent, waitTurn] at h
      by_cases hb : s.busy = true
      · rw [if_pos hb] at h
        cases polls with
        | zero => exact engineTurn_case s.host.pending (by rw [same]; exact h)
        | succ k =>
          simp only [Host.Outcome.next.injEq] at h
          exact .read (.wait k :: rest) statusOffset h.symm
      · rw [if_neg hb] at h
        simp only [Host.Outcome.next.injEq] at h
        exact .read rest statusOffset h.symm
    | engine =>
      simp only [takeEvent] at h
      exact engineTurn_case rest h
    | powerOn =>
      simp only [takeEvent, Host.Outcome.next.injEq] at h
      exact .powerOn rest h.symm

/-- The only fault of a step is the bus's: an access outside the window (log entry 8). -/
theorem step_no_refusal (s : State) (r : Refusal) : step s ≠ .refused r := by
  have run : ∀ w u, runWord w u ≠ .refused r := by
    intro w u
    rcases runWord_cases w u with ⟨i, _, h⟩ | ⟨e, _, h⟩
    · obtain ⟨v, c, d, hv, _⟩ := exec_form i u
      rw [h, hv]; simp
    · rw [h]; simp
  have turn : ∀ u, engineTurn u ≠ .refused r := by
    intro u; unfold engineTurn; split
    · simp
    · exact run _ _
  unfold step
  split
  · exact turn _
  · rename_i e rest _
    cases e with
    | access a =>
      simp only [takeEvent, hostAccess]
      split
      · simp
      · split
        · split <;> simp
        · simp
    | wait polls =>
      simp only [takeEvent, waitTurn]
      split
      · split
        · exact turn _
        · simp
      · simp
    | engine => exact turn _
    | powerOn => simp [takeEvent]

end Sys2Proof.Machine
end

