-- ==== Sys2Proof/Tests/Slice0.lean ====
section
/-! SUPPORT. Tests of one step or one function each, with expected values from the spec's encodings (spec 30) and vectors
(spec 95), and for each statement of Obligations.lean that has hypotheses a witness that they can be met. -/

namespace Sys2Proof.Tests

set_option Elab.async false

open Sys2Proof Sys2Proof.Machine

/-! Helpers -/

/-- The state of an answer; the reset state when the answer is no next state. -/
def after (o : Host.Outcome State Fault Refusal) : State :=
  match o with
  | .next t => t
  | .fault _ => State.reset
  | .refused _ => State.reset

/-- An answer that is a next state. -/
def completes (o : Host.Outcome State Fault Refusal) : Bool :=
  match o with
  | .next _ => true
  | .fault _ => false
  | .refused _ => false

theorem next_after {o : Host.Outcome State Fault Refusal} (h : completes o = true) : o = .next (after o) := by
  cases o <;> first | rfl | cases h

/-- A state with a command accepted. -/
def busyWith (i : Instr) (s : State) : State := s.accept (encode i)

/-- The state a command leaves. -/
def ran (i : Instr) (s : State) : State := after (exec i (busyWith i s))

/-- The key of spec 95 section 3, K = 000102..0f. -/
def vectorKey : List Byte := beBytes 16 0x000102030405060708090a0b0c0d0e0f

/-- Slot contents: SYM with K; Alice's and Bob's keys of spec 95 section 2.3. -/
def symSlot : KeySlot := { type := .sym, klen := 16, key := pack 256 vectorKey }

def alicePriv : KeySlot :=
  { type := .priv, klen := 32
    key := pack 256 (beBytes 32 0x77076d0a7318a57d3c16c17251b26645df4c2f87ebc0992ab177fba51db92c2a) }

def alicePub : KeySlot :=
  { type := .pub, klen := 32
    key := pack 256 (beBytes 32 0x8520f0098930a754748b7ddcb43ef75a0dbf3a0d26381af4eba4a98eaa9b4e6a) }

def bobPriv : KeySlot :=
  { type := .priv, klen := 32
    key := pack 256 (beBytes 32 0x5dab087e624a8a4b79e17f8b83800ee66f3bb1292618b6fd1c2f8b27ff88e0eb) }

def bobPub : KeySlot :=
  { type := .pub, klen := 32
    key := pack 256 (beBytes 32 0xde9edb7d7b7dc1b4d35b61c2ece435373f8343c85b78674dadfc7e146f882b4f) }

/-- A public key slot of the point u = 0. -/
def zeroPub : KeySlot := { type := .pub, klen := 32, key := 0 }

/-- The latch a CCM_NEW with K, M = 8 and N = 13 leaves. -/
def vectorLatch : CcmLatch := { ready := true, ckey := pack 256 vectorKey, cklen := 16, m := 8, ns := 13 }

/-- Reset, with data in DBUF and associated data in ABUF and their lengths. -/
def holding (d a : List Byte) : State :=
  { State.reset with
    len := BitVec.ofNat 16 d.length, alen := BitVec.ofNat 16 a.length
    mem := cellsAt dbufBase d ++ cellsAt abufBase a }

/-- The same with the latch and the nonce of spec 95 section 3. -/
def ccmHolding (d a : List Byte) : State :=
  { holding d a with latch := vectorLatch, nonce := pack 104 (beBytes 13 0x000102030405060708090a0b0c) }

/-- "MESH", its ciphertext and its tag (spec 95 section 1.2). -/
def mesh : List Byte := [0x4d, 0x45, 0x53, 0x48]

def meshSealed : List Byte := [0x49, 0x43, 0x12, 0x34]

def meshTag : List Byte := beBytes 8 0xe5f46218dd519d7a

/-- The MESH example ready to open. -/
def sealedMesh : State := { ccmHolding meshSealed [] with tag := pack 128 meshTag }

/-- The direct message of spec 95 section 3.7, for Bob. -/
def directPayload : List Byte := beBytes 21 0xc496b5bf949e62405e782fa8254645484dd4c3b2a1

def envelope (route : Bool) (d : List Byte) (k0 k1 : KeySlot) : State :=
  { holding d [] with
    variant := 1, route := route, pktid := 0x00C0FFEE, sender := 0x0000BEEF, slot0 := k0, slot1 := k1 }

/-! Well-formedness and decoding (spec 30 R111 to R116) -/

theorem test_wf_refuses_dk_with_slot1 : (Instr.ccmNew .slot1 true).wf = false := by decide +kernel

theorem test_wf_accepts_dk_with_slot0 : (Instr.ccmNew .slot0 true).wf = true := by decide +kernel

theorem test_decode_words :
    [0x00000000#32, 0x00000001, 0x00000101, 0x00000201, 0x00000002, 0x00000003, 0x00000004, 0x00000005,
        0x00000008].map (fun w => (decode w).toOption) =
      [some .nop, some (.ccmNew .slot0 false), some (.ccmNew .slot1 false), some (.ccmNew .slot0 true), some .ccmSeal,
        some .ccmOpen, some .ccmTag, some .ctrXor, some .nonceBuild] := by decide +kernel

theorem test_decode_words_key_family :
    [0x00000010#32, 0x00000110, 0x00000011, 0x00000012, 0x00000018, 0x00000020, 0x0000003F].map
        (fun w => (decode w).toOption) =
      [some (.x25519Base .slot0), some (.x25519Base .slot1), some .x25519, some .deriveKey, some .sha256, some .dispatch,
        some .zeroize] := by decide +kernel

/-- The illegal words of spec 95 section 3.8. -/
theorem test_decode_illegal_words :
    [0x00000006#32, 0x00000040, 0x000000FF, 0x0000003E, 0x00000100, 0x00000200, 0x00000102, 0x00000210, 0x00000301,
        0x80000002].map (fun w => (decode w).toOption) = List.replicate 10 none := by decide +kernel

theorem test_decodeTableWord : decodeTableWord 32 0x00000201 = some (.ccmNew .slot0 true) := by decide +kernel

theorem test_withFetchWord_runs :
    (after (step (State.reset.withFetchWord 32 0x00000008))).resultWord = 0x00080000 := by decide +kernel

/-! The functions (spec 95 section 2) -/

theorem test_aes192 :
    aes (beBytes 24 0x000102030405060708090a0b0c0d0e0f1011121314151617)
        (beBytes 16 0x00112233445566778899aabbccddeeff) =
      beBytes 16 0xdda97ca4864cdfe06eaf70a0ec0d7191 := by decide +kernel

theorem test_aes256 :
    aes (beBytes 32 0x000102030405060708090a0b0c0d0e0f101112131415161718191a1b1c1d1e1f)
        (beBytes 16 0x00112233445566778899aabbccddeeff) =
      beBytes 16 0x8ea2b7ca516745bfeafc49904b496089 := by decide +kernel

theorem test_sha256_two_blocks :
    sha256 (List.replicate 56 0x61) =
      beBytes 32 0xb35439a4ac6f0948b6d6f9e3c6af0f5f590ce20f1bde7090ef7970686ec6738a := by decide +kernel

theorem test_x25519_bit255_ignored :
    x25519 (beBytes 32 0x4b66e9d4d1b4673c5ad22691957d6af5c11b6421e0ea01d42ca4169e7918ba0d)
        (beBytes 32 0xe5210f12786811d3f4b7959d0538ae2c31dbe7106fc03c3efc4cd549c715a493) =
      beBytes 32 0x95cbde9476e8907d7aade45cb4b873f88b595a68799fa152e6f8f7647aac7957 := by decide +kernel

/-- The tag with 15 bytes of associated data, two AAD blocks (spec 95 section 3.1). -/
theorem test_tag_two_aad_blocks :
    cbcMac vectorKey (beBytes 13 0x000102030405060708090a0b0c) 8 (beBytes 15 0x000102030405060708090a0b0c0d0e) mesh =
      beBytes 8 0x6afa25b376e9fa55 := by decide +kernel

/-! Each command (spec 95 section 3) -/

theorem test_nop :
    (ran .nop State.reset).resultWord = 0 ∧ (ran .nop State.reset).statusWord = 0x00000002 := by decide +kernel

theorem test_ccmNew :
    (ran (.ccmNew .slot0 false) { State.reset with slot0 := symSlot }).ccmstatWord = 0x00100D08 := by decide +kernel

theorem test_ccmNew_odd_tag_clears :
    let t := ran (.ccmNew .slot0 false) { State.reset with slot0 := symSlot, tagSize := 3, latch := vectorLatch }
    t.resultWord = 0x00010101 ∧ t.latch = CcmLatch.reset := by decide +kernel

theorem test_ccmSeal_mesh :
    let t := ran .ccmSeal (ccmHolding mesh [])
    t.readReg (.dbuf 0) = 0x34124349 ∧ t.readReg (.tag 0) = 0x1862F4E5 ∧ t.readReg (.tag 2) = 0 := by decide +kernel

theorem test_ccmSeal_aad :
    let t := ran .ccmSeal (ccmHolding mesh (beBytes 8 0x0001020304050607))
    t.readReg (.tag 0) = 0x6098DD98 ∧ t.readReg (.tag 1) = 0x06DA4794 := by decide +kernel

theorem test_ccmOpen_mesh :
    let t := ran .ccmOpen sealedMesh
    t.readReg (.dbuf 0) = 0x4853454D ∧ t.resultWord = 0x00030000 := by decide +kernel

theorem test_ccmOpen_zero_tag :
    let t := ran .ccmOpen { sealedMesh with tag := 0 }
    t.resultWord = 0x00030303 ∧ t.readReg (.dbuf 0) = 0x34124349 ∧ t.olen = 0 := by decide +kernel

theorem test_ccmTag_mesh :
    let t := ran .ccmTag (ccmHolding mesh [])
    t.readReg (.tag 1) = 0x7A9D51DD ∧ t.readReg (.dbuf 0) = 0x4853454D := by decide +kernel

theorem test_ctrXor_mesh : (ran .ctrXor (ccmHolding mesh [])).readReg (.dbuf 0) = 0x34124349 := by decide +kernel

/-- spec 95 section 1.1. -/
theorem test_nonceBuild :
    unpack 13 (ran .nonceBuild { State.reset with pktid := 1, sender := 2, xnonce := 3 }).nonce =
      [0x01, 0, 0, 0, 0x03, 0, 0, 0, 0x02, 0, 0, 0, 0] := by decide +kernel

theorem test_x25519Base :
    let t := ran (.x25519Base .slot1) { State.reset with slot1 := alicePriv }
    t.readReg (.out 0) = 0x09F02085 ∧ t.readReg (.out 7) = 0x6A4E9BAA := by decide +kernel

theorem test_x25519 :
    unpack 32 (ran .x25519 { State.reset with slot0 := alicePriv, slot1 := bobPub }).out =
      beBytes 32 0x4a5d9d5ba4ce2de1728e3bf480350f25e07e21c947d19e3376f09b3c1e161742 := by decide +kernel

/-- The peer as a private key (spec 95 section 4.5). -/
theorem test_deriveKey :
    let t := ran .deriveKey { State.reset with slot0 := alicePriv, slot1 := bobPriv }
    t.dkeyBytes = beBytes 32 0xdead45a1d43d6902aa9240b43c0d75a0b5fc750660590d6d45461cbfc4010684 ∧
      t.statusWord = 0x00000022 := by decide +kernel

theorem test_sha256_abc :
    (ran .sha256 (holding [0x61, 0x62, 0x63] [])).readReg (.digest 0) = 0xBF1678BA := by decide +kernel

/-- Program P1 (spec 95 section 4.1). -/
theorem test_dispatch_channel :
    let t := ran .dispatch { holding mesh [] with variant := 1, pktid := 1, sender := 2, slot0 := symSlot }
    t.readReg (.dbuf 0) = 0xAA789DD0 ∧ t.resultWord = 0x00200000 := by decide +kernel

/-- Program P2 (spec 95 section 4.2). -/
theorem test_dispatch_direct :
    let t := ran .dispatch (envelope true directPayload bobPriv alicePub)
    t.dbuf 9 = beBytes 9 0x0801120568656c6c6f ∧ t.readReg (.dbuf 8) = 0xA82F786F ∧ t.olen = 9 := by decide +kernel

theorem test_zeroize :
    let t := ran .zeroize { ccmHolding mesh [] with slot0 := symSlot }
    t.resultWord = 0x003F0000 ∧ t.slot0 = KeySlot.reset ∧ t.latch = CcmLatch.reset ∧ t.readReg (.dbuf 0) = 0 ∧
      t.len = 4 := by decide +kernel

/-- spec 47 R342. -/
theorem test_illegal_word :
    let t := after (engineTurn (State.reset.accept 0x00000006))
    t.resultWord = 0x00060A0A ∧ t.err = true := by decide +kernel

/-! The bus and the resets (spec 95 section 3.9) -/

theorem test_reset_memory_canonical : State.reset.mem.wf := Memory.wf_nil

theorem test_small_param :
    let s := State.powerOn { dbufBytes := 16, abufBytes := 0, gqeBase := 0, gqeIrq := 0 } { pending := [], responses := [] } 0
    s.readReg .param = 0x00000010 ∧ regAt s.params 0x410 = .reserved := by decide +kernel

theorem test_busy_write_sets_wign :
    let s := (State.reset.accept 0).hostWrite 0x400 0x11223344
    s.wign = true ∧ s.mem = [] := by decide +kernel

theorem test_busy_write_reserved :
    ((State.reset.accept 0).hostWrite 0x100 1).wign = false ∧ ((State.reset.accept 0).hostWrite 0x018 1).wign = false := by
  decide +kernel

theorem test_soft_reset_idle :
    let s := (State.reset.hostWrite 0x400 0x11223344).hostWrite 0x00C 0x3
    s.readReg (.dbuf 0) = 0x11223344 ∧ s.ctrlWord = 0 := by decide +kernel

theorem test_misaligned_access :
    after (hostAccess { addr := 0x002, width := .bits32, kind := .read } State.reset) = State.reset.answer .busError := by
  decide +kernel

/-! Witnesses: for each statement with hypotheses, they can be met, each clause at a boundary -/

theorem witness_IllegalWordCompletesAlone :
    State.reset.seq = .idle ∧ IllegalWord 0x80000002 ∧ IllegalWord 0x301 ∧ IllegalWord 0x100 ∧ IllegalWord 0x210 ∧
      ∀ n ∈ [6, 7, 9, 15, 0x13, 0x17, 0x19, 0x1F, 0x21, 0x3E, 0x40, 0xFF], n < 256 ∧
        opField (BitVec.ofNat 32 n) = BitVec.ofNat 8 n ∧
        (n = 6 ∨ n = 7 ∨ (9 ≤ n ∧ n ≤ 15) ∨ (0x13 ≤ n ∧ n ≤ 0x17) ∨ (0x19 ≤ n ∧ n ≤ 0x1F) ∨ (0x21 ≤ n ∧ n ≤ 0x3E) ∨
          0x40 ≤ n) := by
  refine ⟨rfl, ?_, ?_, ?_, ?_, ?_⟩ <;> try unfold IllegalWord
  all_goals decide +kernel

theorem witness_StepRunsDecodedCommand :
    (busyWith .nop State.reset).engineNext [] ∧
      ((busyWith .nop State.reset).withPending [.engine, .powerOn]).engineNext [.powerOn] ∧
      ((busyWith .nop State.reset).withPending [.wait 0, .powerOn]).engineNext [.wait 0, .powerOn] ∧
      (busyWith .nop State.reset).seq = .busy 0 ∧ decode 0 = .ok .nop :=
  ⟨.inl ⟨rfl, rfl⟩, .inr (.inl rfl), .inr (.inr ⟨[.powerOn], rfl, rfl⟩), rfl, rfl⟩

theorem witness_WaitLoopEnds :
    ∀ k ∈ [0, 3], ((State.reset.accept 6).withPending [.wait k]).seq = .busy 6 ∧
      ((State.reset.accept 6).withPending [.wait k]).host.pending = .wait k :: [] := by
  decide +kernel

theorem witness_CmdWriteAcceptsOrIsIgnored : State.reset.seq = .idle ∧ (State.reset.accept 5).seq = .busy 5 := by decide +kernel

theorem witness_EveryCommandCompletes : (busyWith .nop State.reset).seq = .busy 0 := by decide +kernel

/-- Also of EachResultHasItsCommands: the latch and the digest change. -/
theorem witness_CommandsKeepConfiguration :
    exec .sha256 (busyWith .sha256 (holding [0x61] [])) = .next (ran .sha256 (holding [0x61] [])) ∧
      (ran .sha256 (holding [0x61] [])).digest ≠ 0 :=
  ⟨next_after (by decide +kernel), by decide +kernel⟩

theorem witness_EachResultHasItsCommands :
    exec .zeroize (busyWith .zeroize { sealedMesh with dkey := 1, olen := 1, out := 1, digest := 1, slot0 := symSlot }) =
        .next (ran .zeroize { sealedMesh with dkey := 1, olen := 1, out := 1, digest := 1, slot0 := symSlot }) ∧
      let t := ran .zeroize { sealedMesh with dkey := 1, olen := 1, out := 1, digest := 1, slot0 := symSlot }
      t.latch ≠ vectorLatch ∧ t.dkey ≠ 1 ∧ t.olen ≠ 1 ∧ t.tag ≠ sealedMesh.tag ∧ t.out ≠ 1 ∧ t.digest ≠ 1 ∧
        t.nonce ≠ sealedMesh.nonce ∧ t.slot0 ≠ symSlot ∧ t.byteAt 0x400 ≠ sealedMesh.byteAt 0x400 :=
  ⟨next_after (by decide +kernel), by decide +kernel⟩

theorem witness_LatchAndDkeyHaveTheirWriters :
    (∃ t, step (busyWith (.ccmNew .slot0 false) { State.reset with slot0 := symSlot }) = .next t ∧
        t.latch ≠ CcmLatch.reset) ∧
      (∃ t, step (busyWith .deriveKey { State.reset with dkey := 1, dkeyValid := true }) = .next t ∧ t.dkey ≠ 1) ∧
      (∃ t, step ({ State.reset with latch := vectorLatch, dkey := 1 }.withPending [.powerOn]) = .next t ∧
        t.latch ≠ vectorLatch ∧ t.dkey ≠ 1) :=
  ⟨⟨_, next_after (by decide +kernel), by decide +kernel⟩, ⟨_, next_after (by decide +kernel), by decide +kernel⟩,
    ⟨_, next_after (by decide +kernel), by decide +kernel⟩⟩

/-- A failure in each arm of the statement, both of X25519's, and an illegal word. -/
theorem witness_FailedCommandLeaves :
    [(0x101#32, State.reset), (0x12#32, State.reset), (0x02#32, State.reset), (0x03#32, State.reset),
        (0x05#32, State.reset), (0x20#32, { State.reset with variant := 2 }), (0x11#32, State.reset),
        (0x11#32, { State.reset with slot0 := alicePriv, slot1 := zeroPub }),
        (0x18#32, { State.reset with len := 513 }), (0x301#32, State.reset)].map (fun (w, s) =>
          let o := runWord w (s.accept w)
          completes o && (after o).code != .ok) = List.replicate 10 true := by
  decide +kernel

theorem witness_CauseIsCodeButForDispatch :
    (completes (exec .ccmSeal (busyWith .ccmSeal State.reset)) = true ∧ Instr.ccmSeal ≠ .dispatch) ∧
      (completes (exec .dispatch (busyWith .dispatch State.reset)) = true ∧
        (ran .dispatch State.reset).code ≠ .decryptFailed) ∧
      (let s := envelope true mesh alicePriv bobPub
       completes (exec .dispatch (busyWith .dispatch s)) = true ∧ s.len.toNat ≤ s.params.dbufBytes ∧ s.variant = 1 ∧
         (ran .dispatch s).code = .decryptFailed) := by
  decide +kernel

theorem witness_CodesByCommand :
    Instr.dispatch.wf = true ∧ completes (exec .dispatch (busyWith .dispatch State.reset)) = true := by decide +kernel

theorem busyReset_invariant : Invariant (busyWith .nop State.reset) where
  params := by decide +kernel
  memWf := Memory.wf_nil
  memInBuffers := fun _ h => nomatch h
  latch := by decide +kernel
  dkey := fun _ => rfl
  busy := fun _ h => ⟨Seq.busy.inj h, rfl⟩
  notMalformed := by decide +kernel
  causeIsCode := .inl rfl
  olen := by decide +kernel
  out := by decide +kernel
  drawTaken := by decide +kernel

theorem witness_StepKeepsInvariant :
    ∃ s t, Invariant s ∧ step s = .next t ∧ s.seq = .busy 0 :=
  ⟨_, _, busyReset_invariant, rfl, rfl⟩

theorem witness_PowerOnResetsAll :
    ((busyWith .nop sealedMesh).withPending [.powerOn, .engine]).host.pending = .powerOn :: [.engine] := rfl

theorem witness_SoftResetResetsAllButBuffers :
    (0x3#32).getLsbD 1 = true ∧ State.reset.busy = false ∧ (busyWith .nop State.reset).busy = true := by decide +kernel

/-- Each bad shape at a window's end, and both performed accesses. -/
theorem witness_BadAccessGetsBusError :
    (∀ a ∈ [(⟨0xFFC, .bits16, .read⟩ : Access), ⟨0xFFC, .bits8, .write 0xF 0⟩, ⟨0xFFC, .bits32, .read⟩,
        ⟨0xFFC, .bits32, .write 0xF 0⟩, ⟨0xFFC, .bits32, .write 0x7 0⟩],
      a.offset State.reset.params = some 0xFFC) ∧
      (⟨0xFFF, .bits32, .read⟩ : Access).offset State.reset.params = some 0xFFF := by
  decide +kernel

/-- Each branch of the rule. -/
theorem witness_BusyWrites :
    (busyWith .nop State.reset).busy = true ∧ ((regAt Params.default 0x018).access = .ro) ∧
      regAt Params.default 0xFFC = .reserved ∧ (regAt Params.default 0x080).access = .wo ∧
      (regAt Params.default 0x5FC).access = .rw := by
  decide +kernel

/-- Each branch of the rule, key words at both ends. -/
theorem witness_BusyReads :
    (busyWith .nop State.reset).busy = true ∧ regAt Params.default 0x080 = .key .slot0 0 ∧
      regAt Params.default 0x0BC = .key .slot1 7 ∧ regAt Params.default 0x840 = .reserved ∧
      (regAt Params.default 0x018).readableBusy = false := by
  decide +kernel

theorem witness_ReadsHaveNoSideEffects : State.reset.busy = false := by decide +kernel

theorem witness_HostCannotSeeKeys :
    { State.reset with slot0 := symSlot }.withoutKeys =
        { State.reset with slot0 := { symSlot with key := 0 }, dkey := 1 }.withoutKeys ∧
      ∃ t, hostAccess ⟨0x080, .bits32, .read⟩ { State.reset with slot0 := symSlot } = .next t :=
  ⟨rfl, _, rfl⟩

theorem witness_ReservedOffsetsReadZero :
    Params.default.Legal ∧ ∀ off ∈ [0x068, 0x07C, 0x100, 0x3FC, 0x600, 0x7FC, 0x840, 0xFFC],
      off % 4 = 0 ∧ ((0x068 ≤ off ∧ off < 0x080) ∨ (0x100 ≤ off ∧ off < 0x400) ∨
        (0x400 + Params.default.dbufBytes ≤ off ∧ off < 0x800) ∨
        (0x800 + Params.default.abufBytes ≤ off ∧ off < 0x1000)) := by
  decide +kernel

/-- The written register at the ends of its group, with another one to compare, and a CTRL write without SRST. -/
theorem witness_RegisterWritesReadBack :
    State.reset.busy = false ∧ State.reset.params.Legal ∧ (0xFFFFFFFD#32).getLsbD 1 = false ∧
      (Reg.nonce 3).named Params.default ∧ (Reg.nonce 3).mask ≠ 0 ∧ (Reg.dbuf 508).named Params.default ∧
      (Reg.dbuf 508).mask ≠ 0 ∧ (Reg.abuf 60).named Params.default ∧ (Reg.keyctl .slot1).named Params.default ∧
      (Reg.keyctl .slot1).mask ≠ 0 ∧ Reg.nonce 3 ≠ .keyctl .slot1 ∧ (Reg.key .slot0 7).named Params.default ∧
      (Reg.status).named Params.default ∧ Reg.status ≠ .nonce 3 := by
  unfold Reg.named
  decide +kernel

theorem witness_KeyWordWritesFourBytes : State.reset.busy = false ∧ 0 < 8 ∧ 7 < 8 := by decide +kernel

/-- Registers at the ends of their groups, the read-only ones among them, and buffer words at both ends. -/
theorem witness_RegistersAtTheirOffsets :
    State.reset.params.Legal ∧ State.reset.busy = false ∧ (Reg.out 0).named Params.default ∧
      (Reg.digest 7).named Params.default ∧ (Reg.digest 7).offset = 0x0FC ∧ 508 < Params.default.dbufBytes ∧
      60 < Params.default.abufBytes ∧ (Reg.tag 3).named Params.default ∧ (Reg.key .slot1 7).named Params.default ∧
      (Reg.dbuf 0).named Params.default ∧ (Reg.abuf 60).named Params.default ∧ Reg.env.named Params.default := by
  unfold Reg.named
  decide +kernel

theorem witness_InterruptFollowsDone :
    completes (exec .nop (busyWith .nop State.reset)) = true ∧ (0x2#32).getLsbD 1 = true ∧ (0x2#32).getLsbD 0 = false := by
  decide +kernel

theorem witness_OperandsFixedWhileBusy :
    ∃ t, step ((busyWith .nop State.reset).withPending [.wait 1]) = .next t ∧
      ((busyWith .nop State.reset).withPending [.wait 1]).busy = true ∧ t.busy = true :=
  ⟨_, next_after (by decide +kernel), by decide +kernel, by decide +kernel⟩

theorem witness_LenWriteBeforeCompletionIsDropped : State.reset.seq = .idle := by decide +kernel

theorem witness_NopCompletes : (busyWith .nop State.reset).seq = .busy 0x00 := by decide +kernel

theorem witness_ZeroizeClears : (busyWith .zeroize State.reset).seq = .busy 0x3F := by decide +kernel

theorem witness_NonceBuildLayout : (busyWith .nonceBuild State.reset).seq = .busy 0x08 := by decide +kernel

/-- Spec 30 R118 and R119: any mnemonic takes either option, a hexadecimal offset is an operand, and the last word of a
key is padded with zero bytes. -/
theorem test_driver_forms :
    drvWord .nop .slot1 false = 0x100 ∧ drvWord .x25519Base .slot0 true = 0x210 ∧
      drvWord .ccmNew .slot1 true = 0x301 ∧
      rd Params.default (.hex 0xFFC) = .access ⟨0xFFC, .bits32, .read⟩ ∧
      drvLdkey Params.default .slot1 .sym [1, 2, 3, 4, 5] =
        [.access ⟨0x064, .bits32, .write 0xF 0x501⟩, .access ⟨0x0A0, .bits32, .write 0xF 0x04030201⟩,
          .access ⟨0x0A4, .bits32, .write 0xF 0x05⟩] := by
  decide +kernel

theorem witness_LdbufLoadsItsBytes :
    ∀ b ∈ [[], mesh, zeros 512],
      let s := State.reset.withPending (drvLdbuf Params.default b)
      s.seq = .idle ∧ s.params.Legal ∧ b.length ≤ s.params.dbufBytes ∧ s.host.pending = drvLdbuf s.params b := by
  intro b hb
  simp only [List.mem_cons, List.not_mem_nil, or_false] at hb
  rcases hb with rfl | rfl | rfl <;> exact ⟨rfl, by decide +kernel, by decide +kernel, rfl⟩

/-- Each clause: a usable slot, each bad size, each unusable key. -/
theorem witness_CcmNewFillsOrClearsLatch :
    let ok (t n : Nat) := 7 ≤ n ∧ n ≤ 13 ∧ t % 2 = 0 ∧ 4 ≤ t ∧ t ≤ 16
    (busyWith (.ccmNew .slot0 true) State.reset).seq = .busy 0x201 ∧ ok 4 7 ∧ ok 16 13 ∧ ¬ok 3 13 ∧ ¬ok 18 13 ∧ ¬ok 8 6 ∧
      ¬ok 8 14 ∧ State.reset.tagSize.toNat = 8 ∧ State.reset.nonceSize.toNat = 13 ∧ symSlot.type = .sym ∧
      symSlot.klen.toNat = 16 ∧ alicePub.type ≠ .sym ∧ State.reset.dkeyValid = false ∧
      { State.reset with dkeyValid := true }.dkeyValid = true := by
  decide +kernel

theorem witness_CcmInputChecksInOrder :
    let s := busyWith .ccmSeal { State.reset with latch := vectorLatch }
    (busyWith .ccmSeal State.reset).latch.ready = false ∧ s.seq = .busy 2 ∧ s.latch.ready = true ∧
      s.len.toNat ≤ s.params.dbufBytes ∧ s.alen.toNat ≤ s.params.abufBytes ∧ s.len = 0 ∧
      { s with len := 513 }.len.toNat > s.params.dbufBytes ∧ { s with alen := 65 }.alen.toNat > s.params.abufBytes := by
  decide +kernel

/-- The hypotheses at the shortest and the longest input. -/
theorem witness_CcmSealEncryptsInPlace :
    [(1#16, 0#16), (512#16, 64#16)].map (fun (n, a) =>
        let s := busyWith .ccmSeal { State.reset with latch := vectorLatch, len := n, alen := a }
        decide (s.seq = .busy 2 ∧ s.latch.ready = true ∧ s.latch.Legal ∧ s.len ≠ 0 ∧
          s.len.toNat ≤ s.params.dbufBytes ∧ s.alen.toNat ≤ s.params.abufBytes)) = [true, true] := by
  decide +kernel

theorem witness_CcmTagWritesTag :
    let s := busyWith .ccmTag (ccmHolding mesh [0x00])
    s.seq = .busy 4 ∧ s.latch.ready = true ∧ s.latch.Legal ∧ s.len ≠ 0 ∧ s.len.toNat ≤ s.params.dbufBytes ∧
      s.alen.toNat ≤ s.params.abufBytes := by
  decide +kernel

theorem witness_CcmOpenAuthenticates :
    let s := busyWith .ccmOpen sealedMesh
    let k := (unpack 32 s.latch.ckey).take s.latch.cklen.toNat
    let nonce := (unpack 13 s.nonce).take s.latch.ns.toNat
    let expected := cbcMac k nonce 8 [] (ctr k nonce (s.dbuf s.len.toNat))
    s.seq = .busy 3 ∧ s.latch.ready = true ∧ s.latch.Legal ∧ s.len ≠ 0 ∧ s.len.toNat ≤ s.params.dbufBytes ∧
      s.alen.toNat ≤ s.params.abufBytes ∧ expected = (unpack 16 s.tag).take 8 ∧
      expected ≠ (unpack 16 (0 : BitVec 128)).take 8 := by
  decide +kernel

theorem witness_CtrXorInPlace :
    let s := busyWith .ctrXor { State.reset with latch := vectorLatch }
    s.seq = .busy 5 ∧ s.latch.ready = true ∧ s.latch.Legal ∧ s.len.toNat ≤ s.params.dbufBytes ∧ State.reset.latch.ready = false ∧
      { s with len := 513 }.len.toNat > s.params.dbufBytes ∧ { s with len := 512 }.len.toNat ≤ s.params.dbufBytes := by
  decide +kernel

theorem mesh_invariant (i : Instr) : Invariant (busyWith i (ccmHolding mesh [])) where
  params := show Params.default.Legal by decide +kernel
  memWf := show (ccmHolding mesh []).mem.wf by decide +kernel
  memInBuffers := show ∀ c ∈ (ccmHolding mesh []).mem, inBuffer Params.default c.1 by decide +kernel
  latch := show vectorLatch.Legal by decide +kernel
  dkey := fun _ => rfl
  busy := fun _ h => ⟨Seq.busy.inj h, rfl⟩
  notMalformed := show State.reset.code ≠ _ ∧ State.reset.cause ≠ _ by decide +kernel
  causeIsCode := .inl rfl
  olen := show State.reset.olen.toNat ≤ 512 by decide +kernel
  out := show State.reset.out.toNat < fieldPrime by decide +kernel
  drawTaken := show 0 < 1 by decide +kernel

theorem witness_SealThenOpenRestores :
    ∃ t, Invariant (busyWith .ccmSeal (ccmHolding mesh [])) ∧
      exec .ccmSeal (busyWith .ccmSeal (ccmHolding mesh [])) = .next t ∧ t.code = .ok :=
  ⟨_, mesh_invariant .ccmSeal, next_after (by decide +kernel), by decide +kernel⟩

theorem witness_CtrXorTwiceRestores :
    ∃ t, Invariant (busyWith .ctrXor (ccmHolding mesh [])) ∧
      exec .ctrXor (busyWith .ctrXor (ccmHolding mesh [])) = .next t ∧ t.code = .ok :=
  ⟨_, mesh_invariant .ctrXor, next_after (by decide +kernel), by decide +kernel⟩

theorem witness_CtrByteByByte : aesKeyLength vectorKey.length = true ∧ 3 < mesh.length := by decide +kernel

theorem witness_TagIsCbcMacChain :
    validParams 8 (zeros 13).length = true ∧ validParams 4 (zeros 7).length = true ∧
      validParams 16 (zeros 13).length = true := by
  decide +kernel

theorem witness_X25519BaseWritesPublicKey :
    (busyWith (.x25519Base .slot1) State.reset).seq = .busy 0x110 ∧ (alicePriv.type = .priv ∧ alicePriv.klen = 32) ∧
      ¬(alicePub.type = .priv ∧ alicePub.klen = 32) := by
  decide +kernel

/-- Also of ZeroPointIsRefused: the all-zero product occurs. -/
theorem witness_X25519WritesProduct :
    let s := busyWith .x25519 { State.reset with slot0 := alicePriv, slot1 := zeroPub }
    s.seq = .busy 0x11 ∧ s.slot0.type = .priv ∧ s.slot0.klen = 32 ∧ s.slot1.type = .pub ∧ s.slot1.klen = 32 ∧
      x25519 alicePriv.bytes zeroPub.bytes = zeros 32 ∧ x25519 alicePriv.bytes bobPub.bytes ≠ zeros 32 ∧
      ¬(State.reset.slot0.type = .priv) := by
  decide +kernel

theorem witness_DeriveKeyWritesDkey :
    let s := busyWith .deriveKey { State.reset with slot0 := alicePriv, slot1 := bobPub }
    s.seq = .busy 0x12 ∧ s.slot0.type = .priv ∧ s.slot0.klen = 32 ∧ (s.slot1.type = .pub ∨ s.slot1.type = .priv) ∧
      s.slot1.klen = 32 ∧ bobPriv.type = .priv ∧ zeroPub.type = .pub := by
  decide +kernel

theorem witness_PeerKeyFormsAgree : bobPriv.type = .priv ∧ bobPriv.klen = 32 := by decide +kernel

theorem witness_Sha256WritesDigest :
    (busyWith .sha256 State.reset).seq = .busy 0x18 ∧ { State.reset with len := 512 }.len.toNat ≤ Params.default.dbufBytes ∧
      { State.reset with len := 513 }.len.toNat > Params.default.dbufBytes := by
  decide +kernel

theorem witness_ClampedScalarBits : (zeros 32).length = 32 := by decide +kernel

theorem witness_FieldPowerIsPower : 0 < 2 ^ 0 ∧ fieldPrime - 2 < 2 ^ 255 := by decide +kernel

theorem witness_ZeroPointIsRefused :
    let s := busyWith .x25519 { State.reset with slot0 := alicePriv, slot1 := zeroPub }
    s.seq = .busy 0x11 ∧ s.slot0.type = .priv ∧ s.slot0.klen = 32 ∧ s.slot1.type = .pub ∧ s.slot1.klen = 32 ∧
      s.slot1.key = 0 ∧
      let p := { s with slot1 := { zeroPub with key := BitVec.ofNat 256 (2 ^ 255 - 19) } }
      p.seq = .busy 0x11 ∧ p.slot0.type = .priv ∧ p.slot0.klen = 32 ∧ p.slot1.type = .pub ∧ p.slot1.klen = 32 ∧
        p.slot1.key = BitVec.ofNat 256 (2 ^ 255 - 19) ∧ p.slot1.key ≠ 0 := by
  decide +kernel

theorem witness_DispatchByVariant :
    [0#2, 2#2, 3#2].map (fun v =>
        let s := busyWith .dispatch { State.reset with variant := v, len := 512 }
        decide (s.seq = .busy 0x20 ∧ s.len.toNat ≤ s.params.dbufBytes ∧ s.variant = v ∧
          { s with len := 513 }.len.toNat > s.params.dbufBytes)) = [true, true, true] := by
  decide +kernel

theorem witness_DispatchChannelPath :
    let s := busyWith .dispatch (envelope false mesh symSlot zeroPub)
    s.seq = .busy 0x20 ∧ s.len.toNat ≤ s.params.dbufBytes ∧ s.variant = 1 ∧ s.route = false ∧ s.slot0.type = .sym ∧
      s.slot0.klen.toNat = 16 ∧ alicePriv.type ≠ .sym ∧ { symSlot with klen := 20 }.klen.toNat = 20 := by
  decide +kernel

/-- Each branch of the direct path is reached: the CAUSE it ends with (spec 95 section 3.7). -/
theorem witness_DispatchDirectPath :
    (busyWith .dispatch (envelope true directPayload bobPriv alicePub)).seq = .busy 0x20 ∧
      [envelope true (directPayload.take 11) bobPriv alicePub, envelope true directPayload symSlot alicePub,
          envelope true directPayload { bobPriv with klen := 31 } alicePub, envelope true directPayload bobPriv symSlot,
          envelope true directPayload bobPriv { alicePub with klen := 16 }, envelope true directPayload bobPriv zeroPub,
          envelope true (directPayload.drop 9) bobPriv alicePub, envelope true (directPayload.set 9 0x79) bobPriv alicePub,
          envelope true directPayload bobPriv alicePub].map (fun s => (ran .dispatch s).cause) =
        [.invalidTrailerLength, .keyNotFound, .invalidParameters, .keyNotFound, .invalidParameters, .keyAgreementFailed,
          .invalidInput, .authenticationFailed, .ok] := by
  decide +kernel

theorem witness_DispatchKeepsTheRest :
    completes (exec .dispatch (busyWith .dispatch (envelope false mesh symSlot zeroPub))) = true ∧
      (busyWith .dispatch (envelope false mesh symSlot zeroPub)).seq = .busy 0x20 ∧
      completes (exec .dispatch (busyWith .dispatch (envelope false mesh zeroPub zeroPub))) = true ∧
      (ran .dispatch (envelope false mesh zeroPub zeroPub)).code ≠ .ok := by
  decide +kernel

end Sys2Proof.Tests
end

section
/-! PROOFS of the scope family (spec 00): what no command changes (R16), and the invariant that every step keeps. The
invariant is shown kept by each named state update first, then by each command, by each host access and by the resets,
and a step is one of these (`step_cases`). -/

namespace Sys2Proof.Machine

open Sys2Proof

/-! The configuration -/

/-- Settles O9: every command is a completion of a state that keeps these fields (`exec_form`), and a completion keeps
them too (spec 00 R16, spec 60 R353). -/
theorem commandsKeepConfiguration : Obligations.CommandsKeepConfiguration := by
  intro i s t h
  obtain ⟨u, c, d, hu, hk⟩ := exec_form i s
  obtain rfl : u.complete c d = t := Host.Outcome.next.inj (hu.symm.trans h)
  exact ⟨hk.params, hk.host, hk.draws, hk.bufDraw, hk.irqEn, hk.cmd, hk.wign, hk.len, hk.alen, hk.tagSize,
    hk.nonceSize, hk.pktid, hk.sender, hk.xnonce, hk.variant, hk.route⟩

/-! The result codes -/

theorem State.ccmInputCheck_ne_malformed {s : State} {c : ResultCode} (h : s.ccmInputCheck = some c) :
    c ≠ .malformedPlaintext := by
  rcases State.ccmInputCheck_some h with rfl | rfl <;> decide

theorem State.ctrInputCheck_ne_malformed {s : State} {c : ResultCode} (h : s.ctrInputCheck = some c) :
    c ≠ .malformedPlaintext := by
  rcases State.ctrInputCheck_some h with rfl | rfl <;> decide

/-- The failures an encrypted path can have (spec 46 R315, R316). -/
def pathFailures : List ResultCode :=
  [.keyNotFound, .invalidParameters, .invalidTrailerLength, .keyAgreementFailed, .invalidInput, .authenticationFailed]

theorem channelPath_error {k0 : KeySlot} {pktid sender : Word} {d : List Byte} {c : ResultCode}
    (h : channelPath k0 pktid sender d = .error c) : c ∈ pathFailures := by
  rcases channelPath_cases k0 pktid sender d with ⟨_, hp⟩ | ⟨_, _, hp⟩ | ⟨_, hp⟩
  · cases hp.symm.trans h; decide
  · cases hp.symm.trans h; decide
  · cases hp.symm.trans h

theorem directKeyCheck_some {k0 k1 : KeySlot} {c : ResultCode} (h : directKeyCheck k0 k1 = some c) :
    c = .keyNotFound ∨ c = .invalidParameters := by
  unfold directKeyCheck at h
  split_ifs at h <;> simp only [Option.some.injEq] at h <;> simp [← h]

theorem openDirect_error {k0 k1 : KeySlot} {pktid sender : Word} {parts : DirectParts} {c : ResultCode}
    (h : openDirect k0 k1 pktid sender parts = .error c) : c ∈ pathFailures := by
  rcases openDirect_cases k0 k1 pktid sender parts with
    ⟨_, hp⟩ | ⟨_, _, ⟨_, hp⟩ | ⟨_, _, hp⟩ | ⟨_, _, _, hp⟩⟩
  · cases hp.symm.trans h; decide
  · cases hp.symm.trans h; decide
  · cases hp.symm.trans h; decide
  · cases hp.symm.trans h

theorem directPath_error {k0 k1 : KeySlot} {pktid sender : Word} {d : List Byte} {c : ResultCode}
    (h : directPath k0 k1 pktid sender d = .error c) : c ∈ pathFailures := by
  unfold directPath at h
  split_ifs at h with hlen
  · cases h; decide
  · cases hc : directKeyCheck k0 k1 with
    | some e =>
      simp only [hc, Except.error.injEq] at h
      subst h
      rcases directKeyCheck_some hc with rfl | rfl <;> decide
    | none => simp only [hc] at h; exact openDirect_error h

/-- An encrypted path fails with one of the failures of its route (spec 46 R312, R318). -/
theorem State.encryptedPath_error {s : State} {c : ResultCode} (h : s.encryptedPath = .error c) :
    c ∈ pathFailures := by
  unfold State.encryptedPath at h
  split_ifs at h
  · exact directPath_error h
  · exact channelPath_error h

/-! The values the invariant constrains -/

/-- The latch CCM_NEW fills is legal when the sizes and the key length are (spec 41 R171, R172): the key is packed with
zeros behind it, so CKEY is below 2^(8 CKLEN). -/
theorem State.newLatch_legal {s : State} {k : List Byte}
    (hv : validParams s.tagSize.toNat s.nonceSize.toNat = true) (hk : aesKeyLength k.length = true) :
    (s.newLatch k).Legal := by
  have hle : k.length ≤ 32 := by
    simp only [aesKeyLength, Bool.or_eq_true, beq_iff_eq] at hk
    omega
  have hlen : (s.newLatch k).cklen.toNat = k.length := by
    simp only [State.newLatch, BitVec.toNat_ofNat]
    omega
  have hkey : (s.newLatch k).ckey.toNat = fromLE k := by
    simp only [State.newLatch]
    rw [pack_toNat _ _ (by simp; omega), fromLE_append, fromLE_zeros, Nat.mul_zero, Nat.add_zero]
  have hready : (s.newLatch k).ready = true := rfl
  rw [CcmLatch.Legal, if_pos hready, hlen, hkey]
  exact ⟨hv, hk, fromLE_lt k⟩

/-- A cleared latch is legal (spec 10 R59). -/
theorem CcmLatch.reset_legal : CcmLatch.reset.Legal := rfl

theorem pack_zeros (w n : Nat) : pack w (zeros n) = 0 := by rw [pack, fromLE_zeros]; rfl

/-- OUT after an X25519 result is a field element (spec 43 R233). -/
theorem pack_x25519_lt (k u : List Byte) : (pack 256 (x25519 k u)).toNat < fieldPrime := by
  rw [pack_toNat _ _ (by simp), fromLE_x25519]
  exact ladder_lt _ _

namespace Invariant

section updates

variable {s : State} (h : Invariant s)
include h

/-! The named updates keep the invariant -/

theorem withPending (es : List HostEvent) : Invariant (s.withPending es) := { h with }

theorem answer (r : Response) : Invariant (s.answer r) := { h with }

theorem withTag (b : List Byte) : Invariant (s.withTag b) := { h with }

theorem withNonce (b : List Byte) : Invariant (s.withNonce b) := { h with }

theorem withDigest (b : List Byte) : Invariant (s.withDigest b) := { h with }

theorem withOlen {n : BitVec 16} (hn : n.toNat ≤ s.params.dbufBytes) : Invariant (s.withOlen n) :=
  { h with olen := hn }

theorem withOlen_zero : Invariant (s.withOlen 0) := h.withOlen (Nat.zero_le _)

theorem withOut {b : List Byte} (hb : (pack 256 b).toNat < fieldPrime) : Invariant (s.withOut b) :=
  { h with out := hb }

theorem withOut_x25519 (k u : List Byte) : Invariant (s.withOut (x25519 k u)) := h.withOut (pack_x25519_lt k u)

theorem withDkey_valid (k : List Byte) : Invariant (s.withDkey k true) :=
  { h with dkey := fun hv => nomatch hv }

theorem withDkey_cleared : Invariant (s.withDkey (zeros 32) false) :=
  { h with dkey := fun _ => pack_zeros 256 32 }

theorem withLatch {l : CcmLatch} (hl : l.Legal) : Invariant (s.withLatch l) := { h with latch := hl }

theorem withSlot (n : SlotSel) (k : KeySlot) : Invariant (s.withSlot n k) := by
  cases n with
  | slot0 => exact { h with }
  | slot1 => exact { h with }

theorem accept (w : Word) : Invariant (s.accept w) :=
  { h with busy := fun _ hw => ⟨Seq.busy.inj hw, rfl⟩ }

theorem writeMem {base : Nat} {bs : List Byte}
    (hin : ∀ a, base ≤ a ∧ a < base + bs.length → inBuffer s.params a) : Invariant (s.writeMem base bs) :=
  { h with
    memWf := Memory.wf_write h.memWf base bs
    memInBuffers := fun c hc => (Memory.mem_write hc).elim (h.memInBuffers c) (hin c.1) }

theorem writeDbuf {bs : List Byte} (hl : bs.length ≤ s.params.dbufBytes) : Invariant (s.writeMem dbufBase bs) :=
  h.writeMem fun _ ha => .inl ⟨ha.1, by omega⟩

theorem writeAbuf {bs : List Byte} (hl : bs.length ≤ s.params.abufBytes) : Invariant (s.writeMem abufBase bs) :=
  h.writeMem fun _ ha => .inr ⟨ha.1, by omega⟩

theorem zeroKeys : Invariant s.zeroKeys :=
  { h with latch := rfl, dkey := fun _ => rfl, out := fieldPrime_pos }

theorem zeroBuffers : Invariant s.zeroBuffers :=
  (h.writeDbuf (zeros_length _).le).writeAbuf (zeros_length _).le

/-- A completion leaves the sequencer idle, so only its code and cause have to be allowed (spec 60 R351, R352). -/
theorem complete {c d : ResultCode} (hc : c ≠ .malformedPlaintext) (hd : d ≠ .malformedPlaintext)
    (hcd : d = c ∨ (c = .decryptFailed ∧ s.commandWord.extractLsb' 0 8 = 0x20)) : Invariant (s.complete c d) :=
  { h with busy := fun _ hw => (nomatch hw), notMalformed := ⟨hc, hd⟩, causeIsCode := hcd }

theorem completeSame {c : ResultCode} (hc : c ≠ .malformedPlaintext) : Invariant (s.complete c c) :=
  h.complete hc hc (.inl rfl)

/-! The commands -/

/-- The CTR transform of the input has LEN bytes, since the latched key of a constructed engine is legal (spec 41
R181). -/
theorem ctr_dataIn_length (hr : s.latch.ready = true) :
    (ctr s.latch.keyBytes s.nonceOperand s.dataIn).length = s.len.toNat := by
  rw [ctr_length (h.latch.keyLength hr), State.dataIn_length]

/-- What CCM_SEAL, CCM_OPEN and CTR_XOR do to DBUF: the transformed input over the input. -/
theorem writeCtr (hr : s.latch.ready = true) (hl : s.len.toNat ≤ s.params.dbufBytes) :
    Invariant (s.writeMem dbufBase (ctr s.latch.keyBytes s.nonceOperand s.dataIn)) :=
  h.writeDbuf ((h.ctr_dataIn_length hr).trans_le hl)

theorem ccmNewFrom {ok : Bool} {k : List Byte} (hk : ok = true → aesKeyLength k.length = true) :
    Invariant (s.ccmNewFrom ok k) := by
  rcases s.ccmNewFrom_cases ok k with ⟨hv, hok, e⟩ | ⟨_, e⟩
  · exact e ▸ (h.withLatch (State.newLatch_legal hv (hk hok))).completeSame (by decide)
  · exact e ▸ (h.withLatch CcmLatch.reset_legal).completeSame (by decide)

theorem execCcmNew (ks : SlotSel) (dk : Bool) : ∃ t, execCcmNew ks dk s = .next t ∧ Invariant t := by
  match dk, ks with
  | false, ks =>
    refine ⟨_, rfl, h.ccmNewFrom fun hs => ?_⟩
    simp only [KeySlot.symOk, Bool.and_eq_true] at hs
    rw [KeySlot.keyBytes_length hs.2]
    exact hs.2
  | true, .slot0 => exact ⟨_, rfl, h.ccmNewFrom fun _ => by rw [State.dkeyBytes, unpack_length]; rfl⟩
  | true, .slot1 => exact ⟨_, rfl, h.completeSame (by decide)⟩

theorem execCcmSeal : ∃ t, execCcmSeal s = .next t ∧ Invariant t := by
  rcases execCcmSeal_cases s with ⟨c, hc, e⟩ | ⟨hc, e⟩
  · exact ⟨_, e, h.withOlen_zero.completeSame (State.ccmInputCheck_ne_malformed hc)⟩
  · obtain ⟨hr, hl, _, _⟩ := s.ccmInputCheck_none.1 hc
    exact ⟨_, e, (((h.writeCtr hr hl).withTag _).withOlen hl).completeSame (by decide)⟩

theorem execCcmOpen : ∃ t, execCcmOpen s = .next t ∧ Invariant t := by
  rcases execCcmOpen_cases s with ⟨c, hc, e⟩ | ⟨_, _, e⟩ | ⟨p, hc, ho, e⟩
  · exact ⟨_, e, h.withOlen_zero.completeSame (State.ccmInputCheck_ne_malformed hc)⟩
  · exact ⟨_, e, h.withOlen_zero.completeSame (by decide)⟩
  · obtain ⟨hr, hl, _, _⟩ := s.ccmInputCheck_none.1 hc
    obtain ⟨rfl, _⟩ := ccmOpenFn_eq_some.1 ho
    exact ⟨_, e, ((h.writeCtr hr hl).withOlen hl).completeSame (by decide)⟩

theorem execCcmTag : ∃ t, execCcmTag s = .next t ∧ Invariant t := by
  rcases execCcmTag_cases s with ⟨c, hc, e⟩ | ⟨_, e⟩
  · exact ⟨_, e, h.completeSame (State.ccmInputCheck_ne_malformed hc)⟩
  · exact ⟨_, e, (h.withTag _).completeSame (by decide)⟩

theorem execCtrXor : ∃ t, execCtrXor s = .next t ∧ Invariant t := by
  rcases execCtrXor_cases s with ⟨c, hc, e⟩ | ⟨hc, e⟩
  · exact ⟨_, e, h.withOlen_zero.completeSame (State.ctrInputCheck_ne_malformed hc)⟩
  · obtain ⟨hr, hl⟩ := s.ctrInputCheck_none.1 hc
    exact ⟨_, e, ((h.writeCtr hr hl).withOlen hl).completeSame (by decide)⟩

theorem execX25519Base (ks : SlotSel) : ∃ t, execX25519Base ks s = .next t ∧ Invariant t := by
  rcases execX25519Base_cases ks s with ⟨_, e⟩ | ⟨_, e⟩
  · exact ⟨_, e, (h.withOut_x25519 _ basePoint).completeSame (by decide)⟩
  · exact ⟨_, e, h.completeSame (by decide)⟩

theorem execX25519 : ∃ t, execX25519 s = .next t ∧ Invariant t := by
  rcases execX25519_cases s with ⟨_, _, _, e⟩ | ⟨_, _, _, e⟩ | ⟨_, e⟩
  · exact ⟨_, e, (h.withOut_x25519 _ _).completeSame (by decide)⟩
  · exact ⟨_, e, (h.withOut_x25519 _ _).completeSame (by decide)⟩
  · exact ⟨_, e, h.completeSame (by decide)⟩

theorem execDeriveKey : ∃ t, execDeriveKey s = .next t ∧ Invariant t := by
  rcases execDeriveKey_cases s with ⟨k, _, _, _, e⟩ | ⟨_, _, _, e⟩ | ⟨_, e⟩
  · exact ⟨_, e, (h.withDkey_valid k).completeSame (by decide)⟩
  · exact ⟨_, e, h.withDkey_cleared.completeSame (by decide)⟩
  · exact ⟨_, e, h.withDkey_cleared.completeSame (by decide)⟩

theorem execSha256 : ∃ t, execSha256 s = .next t ∧ Invariant t := by
  rcases execSha256_cases s with ⟨_, e⟩ | ⟨_, e⟩
  · exact ⟨_, e, h.completeSame (by decide)⟩
  · exact ⟨_, e, (h.withDigest _).completeSame (by decide)⟩

/-- DISPATCH is the one command whose cause may differ from its code, so its opcode must be the running word's
(spec 60 R352). -/
theorem execDispatch (hop : s.commandWord.extractLsb' 0 8 = 0x20) :
    ∃ t, execDispatch s = .next t ∧ Invariant t := by
  rcases execDispatch_cases s with ⟨_, e⟩ | ⟨hl, _, e⟩ | ⟨_, _, _, e⟩ | ⟨c, _, _, hp, e⟩ | ⟨p, hl, _, hp, e⟩
  · exact ⟨_, e, h.withOlen_zero.completeSame (by decide)⟩
  · exact ⟨_, e, (h.withOlen hl).completeSame (by decide)⟩
  · exact ⟨_, e, h.withOlen_zero.completeSame (by decide)⟩
  · have hc : c ≠ .malformedPlaintext := by
      rintro rfl
      exact absurd (State.encryptedPath_error hp) (by decide)
    exact ⟨_, e, h.withOlen_zero.complete (by decide) hc (.inr ⟨rfl, hop⟩)⟩
  · have hfit : p.length ≤ s.params.dbufBytes := (State.encryptedPath_ok hp).trans hl
    have holen : (BitVec.ofNat 16 p.length).toNat ≤ s.params.dbufBytes :=
      (BitVec.toNat_ofNat ..).trans_le ((Nat.mod_le _ _).trans hfit)
    exact ⟨_, e, ((h.writeDbuf hfit).withOlen holen).completeSame (by decide)⟩

/-- Every command keeps the invariant, in a state whose running word has the command's opcode. -/
theorem exec {i : Instr} (hop : s.commandWord.extractLsb' 0 8 = i.opcode) :
    ∃ t, exec i s = .next t ∧ Invariant t := by
  cases i with
  | nop => exact ⟨_, rfl, h.completeSame (by decide)⟩
  | ccmNew ks dk => exact h.execCcmNew ks dk
  | ccmSeal => exact h.execCcmSeal
  | ccmOpen => exact h.execCcmOpen
  | ccmTag => exact h.execCcmTag
  | ctrXor => exact h.execCtrXor
  | nonceBuild => exact ⟨_, rfl, (h.withNonce _).completeSame (by decide)⟩
  | x25519Base ks => exact h.execX25519Base ks
  | x25519 => exact h.execX25519
  | deriveKey => exact h.execDeriveKey
  | sha256 => exact h.execSha256
  | dispatch => exact h.execDispatch hop
  | zeroize => exact ⟨_, rfl, h.zeroKeys.zeroBuffers.withOlen_zero.completeSame (by decide)⟩

/-- The engine keeps the invariant: a decoded word has its command's opcode (spec 30 R114), and an illegal one completes
with ILLEGAL_COMMAND alone (spec 47 R342). -/
theorem runWord {w : Word} (hw : s.seq = .busy w) : ∃ t, runWord w s = .next t ∧ Invariant t := by
  rcases runWord_cases w s with ⟨i, hd, e⟩ | ⟨_, _, e⟩
  · rw [e]
    exact h.exec (by rw [s.commandWord_of_busy w hw]; exact decode_ok_opcode hd)
  · exact ⟨_, e, h.completeSame (by decide)⟩

/-! The resets and the host's accesses -/

theorem powerOnReset : Invariant s.powerOnReset where
  params := h.params
  memWf := Memory.wf_nil
  memInBuffers := fun _ hc => nomatch hc
  latch := rfl
  dkey := fun _ => rfl
  busy := fun _ hw => nomatch hw
  notMalformed := ⟨ResultCode.noConfusion, ResultCode.noConfusion⟩
  causeIsCode := .inl rfl
  olen := Nat.zero_le _
  out := fieldPrime_pos
  drawTaken := Nat.lt_succ_self _

/-- The soft reset keeps the buffers and their draw when idle, and is the power-on reset when busy (spec 70 R383,
R384). -/
theorem softReset : Invariant s.softReset := by
  rcases s.softReset_cases with ⟨_, e⟩ | ⟨_, e⟩
  · exact e ▸ h.powerOnReset
  · rw [e]
    exact { h.powerOnReset with memWf := h.memWf, memInBuffers := h.memInBuffers, drawTaken := h.drawTaken }

theorem hostRead (off : Nat) : Invariant (s.hostRead off) := by
  rcases s.hostRead_cases off with ⟨_, e⟩ | ⟨_, _, e⟩
  · exact e ▸ h.answer _
  · have drawn : Invariant { s with draws := s.draws + 1 } :=
      { h with drawTaken := h.drawTaken.trans (Nat.lt_succ_self _) }
    exact e ▸ drawn.answer _

theorem writeCtrl (w : Word) : Invariant (s.writeCtrl w) := by
  cases hw : w.getLsbD 1
  · rw [s.writeCtrl_irqEn hw]; exact { h with }
  · rw [s.writeCtrl_softReset hw]; exact h.softReset

/-- STATUS can clear DONE but not set it, so DONE stays 0 while a command runs (spec 10 R39). -/
theorem writeStatus (w : Word) : Invariant (s.writeStatus w) :=
  { h with
    busy := fun v hv => by
      obtain ⟨hcmd, hdone⟩ := h.busy v hv
      exact ⟨hcmd, by simp [State.writeStatus, clearedBy, hdone]⟩ }

/-- A word written at an aligned offset of a buffer lies whole in it: the buffer sizes are multiples of 4 (spec 00 R7,
spec 20 R85, R86). -/
theorem writeReg {off : Nat} (ha : off % 4 = 0) (w : Word) : Invariant (s.writeReg (regAt s.params off) w) := by
  obtain ⟨_, _, hd16, _, ha4, _⟩ := h.params
  have hdb : dbufBase = 0x400 := rfl
  have hab : abufBase = 0x800 := rfl
  cases hr : regAt s.params off with
  | ctrl => exact h.writeCtrl w
  | status => exact h.writeStatus w
  | cmd => exact h.accept w
  | keyctl n => exact h.withSlot n _
  | key n k => exact h.withSlot n _
  | dbuf o =>
    obtain ⟨ho, hlo, hhi⟩ := regAt_dbuf hr
    refine h.writeMem fun a hwr => .inl ?_
    rw [leBytes_length] at hwr
    omega
  | abuf o =>
    obtain ⟨ho, hlo, hhi⟩ := regAt_abuf hr
    refine h.writeMem fun a hwr => .inr ?_
    rw [leBytes_length] at hwr
    omega
  | len | alen | ccmcfg | pktid | sender | xnonce | env | nonce | tag => exact { h with }
  | id | version | param | result | olen | ccmstat | out | digest | reserved => exact h

theorem writeRegBusy (r : Reg) (w : Word) : Invariant (s.writeRegBusy r w) := by
  cases r with
  | ctrl => exact h.writeCtrl w
  | status => exact h.writeStatus w
  | id | version | param | result | olen | ccmstat | out | digest | reserved => exact h
  | cmd | len | alen | ccmcfg | pktid | sender | xnonce | env => exact { h with }
  | nonce | tag | keyctl | key | dbuf | abuf => exact { h with }

theorem hostWrite {off : Nat} (ha : off % 4 = 0) (w : Word) : Invariant (s.hostWrite off w) := by
  cases hb : s.busy
  · rw [State.hostWrite_idle hb]; exact (h.writeReg ha w).answer _
  · simp only [State.hostWrite, hb, if_true]; exact (h.writeRegBusy _ w).answer _

/-- One step keeps the invariant, in each of its cases (spec 10 R30, spec 70 R395). -/
theorem step {t : State} (ht : step s = .next t) : Invariant t := by
  cases step_cases ht with
  | rest es _ e => exact e ▸ h.withPending es
  | engine es w hw run =>
    obtain ⟨u, hu, inv⟩ := (h.withPending es).runWord (w := w) hw
    exact Host.Outcome.next.inj (hu.symm.trans run) ▸ inv
  | read es off e => exact e ▸ (h.withPending es).hostRead off
  | write es off w aligned _ e => exact e ▸ (h.withPending es).hostWrite aligned w
  | busError es e => exact e ▸ (h.withPending es).answer _
  | powerOn es e => exact e ▸ (h.withPending es).powerOnReset

end updates

end Invariant

/-- Settles O15: a step is the engine's completion, a host access or a reset (`step_cases`), and each keeps the
invariant. -/
theorem stepKeepsInvariant : Obligations.StepKeepsInvariant := fun _ _ h ht => h.step ht

end Sys2Proof.Machine
end

section
/-! PROOFS of the state family (spec 10), part 1: which commands change a result register, the CCM latch, DKEY, a key
slot or a buffer (R44, R51, R53 to R60), and that no host access but a reset changes the latch or DKEY. -/

namespace Sys2Proof.Machine

open Sys2Proof

/-! The commands that write each result -/

/-- What differs from s in u is a result that the command i writes (spec 10 R44, R51, R53 to R60, spec 20 R89). -/
structure ChangesOnlyItsResults (i : Instr) (s u : State) : Prop where
  latch : u.latch ≠ s.latch → (∃ ks dk, i = .ccmNew ks dk) ∨ i = .zeroize
  dkey : u.dkey ≠ s.dkey ∨ u.dkeyValid ≠ s.dkeyValid → i = .deriveKey ∨ i = .zeroize
  olen : u.olen ≠ s.olen → i ∈ [Instr.ccmSeal, .ccmOpen, .ctrXor, .dispatch, .zeroize]
  tag : u.tag ≠ s.tag → i ∈ [Instr.ccmSeal, .ccmTag, .zeroize]
  out : u.out ≠ s.out → (∃ ks, i = .x25519Base ks) ∨ i ∈ [Instr.x25519, .zeroize]
  digest : u.digest ≠ s.digest → i ∈ [Instr.sha256, .zeroize]
  nonce : u.nonce ≠ s.nonce → i ∈ [Instr.nonceBuild, .zeroize]
  slots : u.slot0 ≠ s.slot0 ∨ u.slot1 ≠ s.slot1 → i = .zeroize
  bytes : ∀ a, u.byteAt a ≠ s.byteAt a → i ∈ [Instr.ccmSeal, .ccmOpen, .ctrXor, .dispatch, .zeroize]

namespace ChangesOnlyItsResults

theorem refl (i : Instr) (s : State) : ChangesOnlyItsResults i s s := by constructor <;> simp

section updates

variable {i : Instr} {s u : State} (h : ChangesOnlyItsResults i s u)
include h

theorem complete (c d : ResultCode) : ChangesOnlyItsResults i s (u.complete c d) := { h with }

theorem withLatch (hi : ∃ ks dk, i = .ccmNew ks dk) (l : CcmLatch) : ChangesOnlyItsResults i s (u.withLatch l) :=
  { h with latch := fun _ => .inl hi }

theorem withDkey (hi : i = .deriveKey) (k : List Byte) (v : Bool) : ChangesOnlyItsResults i s (u.withDkey k v) :=
  { h with dkey := fun _ => .inl hi }

theorem withOlen (hi : i ∈ [Instr.ccmSeal, .ccmOpen, .ctrXor, .dispatch, .zeroize]) (n : BitVec 16) :
    ChangesOnlyItsResults i s (u.withOlen n) :=
  { h with olen := fun _ => hi }

theorem withTag (hi : i ∈ [Instr.ccmSeal, .ccmTag, .zeroize]) (b : List Byte) :
    ChangesOnlyItsResults i s (u.withTag b) :=
  { h with tag := fun _ => hi }

theorem withOut (hi : (∃ ks, i = .x25519Base ks) ∨ i ∈ [Instr.x25519, .zeroize]) (b : List Byte) :
    ChangesOnlyItsResults i s (u.withOut b) :=
  { h with out := fun _ => hi }

theorem withDigest (hi : i ∈ [Instr.sha256, .zeroize]) (b : List Byte) :
    ChangesOnlyItsResults i s (u.withDigest b) :=
  { h with digest := fun _ => hi }

theorem withNonce (hi : i ∈ [Instr.nonceBuild, .zeroize]) (b : List Byte) :
    ChangesOnlyItsResults i s (u.withNonce b) :=
  { h with nonce := fun _ => hi }

theorem writeMem (hi : i ∈ [Instr.ccmSeal, .ccmOpen, .ctrXor, .dispatch, .zeroize]) (o : Nat) (b : List Byte) :
    ChangesOnlyItsResults i s (u.writeMem o b) :=
  { h with bytes := fun _ _ => hi }

end updates

/-- ZEROIZE is a writer of every result (spec 47 R341). -/
theorem zeroize (s u : State) : ChangesOnlyItsResults .zeroize s u := by constructor <;> simp

theorem ccmNew (ks : SlotSel) (dk : Bool) (s : State) :
    ∃ t, execCcmNew ks dk s = .next t ∧ ChangesOnlyItsResults (.ccmNew ks dk) s t := by
  have r := refl (.ccmNew ks dk) s
  have new : ∀ ok k, ChangesOnlyItsResults (.ccmNew ks dk) s (s.ccmNewFrom ok k) := by
    intro ok k
    rcases s.ccmNewFrom_cases ok k with ⟨_, _, e⟩ | ⟨_, e⟩
    · exact e ▸ (r.withLatch ⟨ks, dk, rfl⟩ _).complete _ _
    · exact e ▸ (r.withLatch ⟨ks, dk, rfl⟩ _).complete _ _
  match dk, ks with
  | false, _ => exact ⟨_, rfl, new _ _⟩
  | true, .slot0 => exact ⟨_, rfl, new _ _⟩
  | true, .slot1 => exact ⟨_, rfl, r.complete _ _⟩

/-- Every command changes only its own results: in each case of its meaning, by the updates that case makes. -/
theorem exec (i : Instr) (s : State) : ∃ t, exec i s = .next t ∧ ChangesOnlyItsResults i s t := by
  have r := refl i s
  cases i with
  | nop => exact ⟨_, rfl, r.complete _ _⟩
  | ccmNew ks dk => exact ccmNew ks dk s
  | ccmSeal =>
    rcases execCcmSeal_cases s with ⟨_, _, e⟩ | ⟨_, e⟩
    · exact ⟨_, e, (r.withOlen (by decide) _).complete _ _⟩
    · exact ⟨_, e, (((r.writeMem (by decide) _ _).withTag (by decide) _).withOlen (by decide) _).complete _ _⟩
  | ccmOpen =>
    rcases execCcmOpen_cases s with ⟨_, _, e⟩ | ⟨_, _, e⟩ | ⟨_, _, _, e⟩
    · exact ⟨_, e, (r.withOlen (by decide) _).complete _ _⟩
    · exact ⟨_, e, (r.withOlen (by decide) _).complete _ _⟩
    · exact ⟨_, e, ((r.writeMem (by decide) _ _).withOlen (by decide) _).complete _ _⟩
  | ccmTag =>
    rcases execCcmTag_cases s with ⟨_, _, e⟩ | ⟨_, e⟩
    · exact ⟨_, e, r.complete _ _⟩
    · exact ⟨_, e, (r.withTag (by decide) _).complete _ _⟩
  | ctrXor =>
    rcases execCtrXor_cases s with ⟨_, _, e⟩ | ⟨_, e⟩
    · exact ⟨_, e, (r.withOlen (by decide) _).complete _ _⟩
    · exact ⟨_, e, ((r.writeMem (by decide) _ _).withOlen (by decide) _).complete _ _⟩
  | nonceBuild => exact ⟨_, rfl, (r.withNonce (by decide) _).complete _ _⟩
  | x25519Base ks =>
    rcases execX25519Base_cases ks s with ⟨_, e⟩ | ⟨_, e⟩
    · exact ⟨_, e, (r.withOut (.inl ⟨ks, rfl⟩) _).complete _ _⟩
    · exact ⟨_, e, r.complete _ _⟩
  | x25519 =>
    rcases execX25519_cases s with ⟨_, _, _, e⟩ | ⟨_, _, _, e⟩ | ⟨_, e⟩
    · exact ⟨_, e, (r.withOut (.inr (by decide)) _).complete _ _⟩
    · exact ⟨_, e, (r.withOut (.inr (by decide)) _).complete _ _⟩
    · exact ⟨_, e, r.complete _ _⟩
  | deriveKey =>
    rcases execDeriveKey_cases s with ⟨_, _, _, _, e⟩ | ⟨_, _, _, e⟩ | ⟨_, e⟩
    · exact ⟨_, e, (r.withDkey rfl _ _).complete _ _⟩
    · exact ⟨_, e, (r.withDkey rfl _ _).complete _ _⟩
    · exact ⟨_, e, (r.withDkey rfl _ _).complete _ _⟩
  | sha256 =>
    rcases execSha256_cases s with ⟨_, e⟩ | ⟨_, e⟩
    · exact ⟨_, e, r.complete _ _⟩
    · exact ⟨_, e, (r.withDigest (by decide) _).complete _ _⟩
  | dispatch =>
    rcases execDispatch_cases s with ⟨_, e⟩ | ⟨_, _, e⟩ | ⟨_, _, _, e⟩ | ⟨_, _, _, _, e⟩ | ⟨_, _, _, _, e⟩
    · exact ⟨_, e, (r.withOlen (by decide) _).complete _ _⟩
    · exact ⟨_, e, (r.withOlen (by decide) _).complete _ _⟩
    · exact ⟨_, e, (r.withOlen (by decide) _).complete _ _⟩
    · exact ⟨_, e, (r.withOlen (by decide) _).complete _ _⟩
    · exact ⟨_, e, ((r.writeMem (by decide) _ _).withOlen (by decide) _).complete _ _⟩
  | zeroize => exact ⟨_, rfl, zeroize s _⟩

/-- The same of a given next state. -/
theorem of_exec {i : Instr} {s t : State} (ht : Machine.exec i s = .next t) : ChangesOnlyItsResults i s t := by
  obtain ⟨u, hu, h⟩ := exec i s
  exact Host.Outcome.next.inj (hu.symm.trans ht) ▸ h

end ChangesOnlyItsResults

/-- Settles O10: every command changes only its own results (`ChangesOnlyItsResults.exec`). -/
theorem eachResultHasItsCommands : Obligations.EachResultHasItsCommands := by
  intro i s t ht
  obtain ⟨latch, dkey, olen, tag, out, digest, nonce, slots, bytes⟩ := ChangesOnlyItsResults.of_exec ht
  exact ⟨latch, dkey, olen, tag, out, digest, nonce, slots, bytes⟩

/-! The writers of the CCM latch and of DKEY -/

/-- Where a step comes from, with the pending event it takes: the engine's turn, a host access, a poll of the wait loop
that does not give the engine its turn, or the power-on reset (spec 10 R30, spec 70 R395). -/
inductive StepSource (s t : State) : Prop where
  | engine (es : List HostEvent) (next : s.engineNext es) (run : engineTurn (s.withPending es) = .next t)
  | access (a : Access) (rest : List HostEvent) (pending : s.host.pending = .access a :: rest)
      (run : hostAccess a (s.withPending rest) = .next t)
  | poll (es : List HostEvent) (eq : t = (s.withPending es).hostRead statusOffset)
  | powerOn (rest : List HostEvent) (pending : s.host.pending = .powerOn :: rest)

theorem step_source {s t : State} (h : step s = .next t) : StepSource s t := by
  have same : s.withPending s.host.pending = s := rfl
  unfold step at h
  cases hp : s.host.pending with
  | nil => exact .engine [] (.inl ⟨hp, rfl⟩) (by rw [← hp, same]; simpa only [hp] using h)
  | cons e rest =>
    simp only [hp] at h
    cases e with
    | access a => exact .access a rest hp h
    | engine => exact .engine rest (.inr (.inl hp)) h
    | powerOn => exact .powerOn rest hp
    | wait polls =>
      simp only [takeEvent, waitTurn] at h
      split at h
      · cases polls with
        | zero => exact .engine _ (.inr (.inr ⟨rest, hp, rfl⟩)) (by rw [← hp, same]; exact h)
        | succ k => exact .poll _ (Host.Outcome.next.inj h).symm
      · exact .poll _ (Host.Outcome.next.inj h).symm

/-- The CCM latch, DKEY and DKEY_VALID are in t what they are in s. -/
structure KeepsLatchAndDkey (s t : State) : Prop where
  latch : t.latch = s.latch
  dkey : t.dkey = s.dkey
  dkeyValid : t.dkeyValid = s.dkeyValid

theorem hostRead_keepsLatchAndDkey (s : State) (off : Nat) : KeepsLatchAndDkey s (s.hostRead off) := by
  rcases s.hostRead_cases off with ⟨_, e⟩ | ⟨_, _, e⟩
  · rw [e]; exact ⟨rfl, rfl, rfl⟩
  · rw [e]; exact ⟨rfl, rfl, rfl⟩

/-- An idle register write keeps the latch and DKEY, but for a soft reset (spec 10 R36, R59, R60). -/
theorem writeReg_keepsLatchAndDkey (s : State) (r : Reg) (w : Word) (h : r = .ctrl → w.getLsbD 1 = false) :
    KeepsLatchAndDkey s (s.writeReg r w) := by
  cases r with
  | ctrl => rw [State.writeReg, s.writeCtrl_irqEn (h rfl)]; exact ⟨rfl, rfl, rfl⟩
  | keyctl n | key n k => cases n <;> exact ⟨rfl, rfl, rfl⟩
  | _ => exact ⟨rfl, rfl, rfl⟩

/-- A busy register write keeps the latch and DKEY, but for a soft reset (spec 10 R36, spec 20 R92). -/
theorem writeRegBusy_keepsLatchAndDkey (s : State) (r : Reg) (w : Word) (h : r = .ctrl → w.getLsbD 1 = false) :
    KeepsLatchAndDkey s (s.writeRegBusy r w) := by
  cases r with
  | ctrl => rw [State.writeRegBusy, s.writeCtrl_irqEn (h rfl)]; exact ⟨rfl, rfl, rfl⟩
  | _ => exact ⟨rfl, rfl, rfl⟩

/-- A write over the bus keeps the latch and DKEY, but for a soft reset (spec 10 R59, R60). -/
theorem hostWrite_keepsLatchAndDkey (s : State) {off : Nat} {w : Word} (ha : off % 4 = 0)
    (h : off = 0x00C → w.getLsbD 1 = false) : KeepsLatchAndDkey s (s.hostWrite off w) := by
  have hctrl : regAt s.params off = .ctrl → w.getLsbD 1 = false := fun hr =>
    h ((regAt_offset ha hr).resolve_left (by decide))
  cases hb : s.busy
  · obtain ⟨hl, hk, hv⟩ := writeReg_keepsLatchAndDkey s _ w hctrl
    simp only [State.hostWrite, hb]
    exact ⟨hl, hk, hv⟩
  · obtain ⟨hl, hk, hv⟩ := writeRegBusy_keepsLatchAndDkey s _ w hctrl
    simp only [State.hostWrite, hb]
    exact ⟨hl, hk, hv⟩

/-- A well-shaped access is at a multiple of 4 (spec 20 R81). -/
theorem Access.wellShaped_aligned {a : Access} {off : Nat} (h : a.wellShaped off = true) : off % 4 = 0 := by
  simp only [Access.wellShaped, Bool.and_eq_true, beq_iff_eq] at h
  exact h.1.2

/-- A host access is a soft reset or keeps the latch and DKEY (spec 10 R59, R60). -/
theorem access_keepsLatchAndDkey {s t : State} {a : Access} {rest : List HostEvent}
    (hp : s.host.pending = .access a :: rest) (h : hostAccess a (s.withPending rest) = .next t) :
    s.resetNext ∨ KeepsLatchAndDkey s t := by
  obtain ⟨off, ho, ⟨_, _, e⟩ | ⟨m, w, hw, hk, e⟩ | ⟨_, e⟩⟩ := hostAccess_cases h
  · obtain ⟨hl, hd, hv⟩ := hostRead_keepsLatchAndDkey (s.withPending rest) off
    exact .inr (e ▸ ⟨hl, hd, hv⟩)
  · by_cases hr : off = 0x00C ∧ w.getLsbD 1 = true
    · obtain ⟨rfl, hb⟩ := hr
      exact .inl ⟨rest, .inr ⟨a, m, w, hp, hk, ho, hw, hb⟩⟩
    · obtain ⟨hl, hd, hv⟩ := hostWrite_keepsLatchAndDkey (s.withPending rest) (Access.wellShaped_aligned hw)
        fun h0 => Bool.eq_false_iff.2 fun hb => hr ⟨h0, hb⟩
      exact .inr (e ▸ ⟨hl, hd, hv⟩)
  · exact .inr (e ▸ ⟨rfl, rfl, rfl⟩)

/-- The engine's turn keeps the latch and DKEY or runs a command, which changes only its own results. -/
theorem engineTurn_changes {s t : State} (h : engineTurn s = .next t) :
    KeepsLatchAndDkey s t ∨ ∃ w i, s.seq = .busy w ∧ decode w = .ok i ∧ ChangesOnlyItsResults i s t := by
  unfold engineTurn at h
  cases hs : s.seq with
  | idle =>
    simp only [hs] at h
    exact .inl (Host.Outcome.next.inj h ▸ ⟨rfl, rfl, rfl⟩)
  | busy w =>
    simp only [hs] at h
    rcases runWord_cases w s with ⟨i, hd, e⟩ | ⟨_, _, e⟩
    · exact .inr ⟨w, i, rfl, hd, .of_exec (e.symm.trans h)⟩
    · exact .inl (Host.Outcome.next.inj (e.symm.trans h) ▸ ⟨rfl, rfl, rfl⟩)

/-- A step is a reset, keeps the latch and DKEY, or runs a command, which changes only its own results. -/
theorem step_changes {s t : State} (h : step s = .next t) :
    s.resetNext ∨ KeepsLatchAndDkey s t ∨
      ∃ es w i, s.engineNext es ∧ s.seq = .busy w ∧ decode w = .ok i ∧
        ChangesOnlyItsResults i (s.withPending es) t := by
  cases step_source h with
  | engine es next run =>
    rcases engineTurn_changes run with ⟨hl, hd, hv⟩ | ⟨w, i, hw, hd, hc⟩
    · exact .inr (.inl ⟨hl, hd, hv⟩)
    · exact .inr (.inr ⟨es, w, i, next, hw, hd, hc⟩)
  | access a rest pending run => exact (access_keepsLatchAndDkey pending run).imp_right .inl
  | poll es eq =>
    obtain ⟨hl, hd, hv⟩ := hostRead_keepsLatchAndDkey (s.withPending es) statusOffset
    exact .inr (.inl (eq ▸ ⟨hl, hd, hv⟩))
  | powerOn rest pending => exact .inl ⟨rest, .inl pending⟩

/-- Settles O11: only a reset and a command change the latch or DKEY (`step_changes`), and the command is then one of
their writers (`ChangesOnlyItsResults`). -/
theorem latchAndDkeyHaveTheirWriters : Obligations.LatchAndDkeyHaveTheirWriters := by
  intro s t h
  rcases step_changes h with hr | ⟨hl, hd, hv⟩ | ⟨es, w, i, next, hw, hi, hc⟩
  · exact ⟨fun _ => .inl hr, fun _ => .inl hr⟩
  · exact ⟨fun hne => absurd hl hne, fun hne => hne.elim (absurd hd) (absurd hv)⟩
  · exact ⟨fun hne => .inr ⟨es, w, i, next, hw, hi, hc.latch hne⟩,
      fun hne => .inr ⟨es, w, i, next, hw, hi, hc.dkey hne⟩⟩

end Sys2Proof.Machine
end

section
/-! PROOFS of the state family (spec 10), part 2: the reset values (R65), the write-1-to-clear bits of STATUS (R39 to
R42), the reserved offsets (R62), and that no host access depends on a key byte (R53, R59, R60). -/

namespace Sys2Proof.Machine

open Sys2Proof

/-! The reset state -/

/-- Settles O16: each clause is a fact about the reset value of its fields (spec 10 R65). -/
theorem resetMeetsInvariant : Obligations.ResetMeetsInvariant where
  params := by decide
  memWf := Memory.wf_nil
  memInBuffers := fun _ hc => nomatch hc
  latch := CcmLatch.reset_legal
  dkey := fun _ => rfl
  busy := fun _ hw => nomatch hw
  notMalformed := ⟨by decide, by decide⟩
  causeIsCode := .inl rfl
  olen := Nat.zero_le _
  out := fieldPrime_pos
  drawTaken := by decide

/-- Every word of a register group that holds zero is zero (spec 20 R84). -/
theorem getWord_zero (w k : Nat) : getWord (0 : BitVec w) k = 0 := by
  simp [getWord]

/-- A register of the reset table without a reset value of its own reads 0 (spec 10 R65). -/
theorem reset_readReg {r : Reg} (hr : r ∉ [Reg.id, .version, .param, .ccmcfg])
    (hbuf : ∀ o, r ≠ .dbuf o ∧ r ≠ .abuf o) : State.reset.readReg r = 0 := by
  cases r with
  | id | version | param | ccmcfg => simp at hr
  | dbuf o => exact absurd rfl (hbuf o).1
  | abuf o => exact absurd rfl (hbuf o).2
  | keyctl n => cases n <;> rfl
  | nonce k | tag k | out k | digest k => exact getWord_zero _ k
  | _ => rfl

/-- Settles O17: the four registers that reset to a value of their own, the others by `reset_readReg`. -/
theorem resetTable : Obligations.ResetTable :=
  ⟨fun _ hr hbuf => reset_readReg hr hbuf, rfl, rfl, rfl, rfl, rfl, rfl, rfl, rfl, rfl, rfl, rfl⟩

/-! Writes that take effect busy or idle -/

/-- A write to a register whose busy rule is its idle rule (spec 20 R92). -/
theorem State.hostWrite_of_same (s t : State) (off : Nat) (w : Word) (hi : s.writeReg (regAt s.params off) w = t)
    (hb : s.writeRegBusy (regAt s.params off) w = t) : s.hostWrite off w = t.answer .written := by
  simp only [State.hostWrite, hi, hb, ite_self]

/-- A status bit after a write of b, as spec 10 R39 to R41 word it. -/
theorem clearedBy_eq (bit b : Bool) : clearedBy bit b = if b then false else bit := by
  cases b <;> simp [clearedBy]

/-- Settles O24: STATUS stands at 0x014, and busy or idle its write is the write-1-to-clear of its three bits. -/
theorem statusWriteOneToClear : Obligations.StatusWriteOneToClear := by
  intro s w
  have hr : regAt s.params 0x014 = .status := regAt_low s.params (by decide)
  simp only [← clearedBy_eq]
  exact s.hostWrite_of_same _ _ _ (by rw [hr]; rfl) (by rw [hr]; rfl)

/-! Reserved offsets -/

/-- Past the last single register there is none (spec 10 R32). -/
theorem singleReg_reserved {off : Nat} (h : 0x068 ≤ off) : singleReg off = .reserved := by
  unfold singleReg
  split <;> first | rfl | omega

/-- Outside the register groups an offset is in a buffer window, a single register or reserved (spec 10 R32). -/
theorem regAt_buffers (p : Params) {off : Nat} (h : off < 0x040 ∨ (0x060 ≤ off ∧ off < 0x080) ∨ 0x100 ≤ off) :
    regAt p off =
      if dbufBase ≤ off ∧ off < dbufBase + p.dbufBytes then .dbuf (off - dbufBase)
      else if abufBase ≤ off ∧ off < abufBase + p.abufBytes then .abuf (off - abufBase)
      else singleReg off := by
  rw [regAt, if_neg (by omega), if_neg (by omega), if_neg (by omega), if_neg (by omega), if_neg (by omega),
    if_neg (by omega)]

/-- The offsets that the map leaves reserved, the ends of the buffer windows among them (spec 10 R62, spec 20 R85,
R86). -/
theorem regAt_reserved {p : Params} {off : Nat} (hp : p.Legal)
    (h : (0x068 ≤ off ∧ off < 0x080) ∨ (0x100 ≤ off ∧ off < 0x400) ∨ (0x400 + p.dbufBytes ≤ off ∧ off < 0x800) ∨
      (0x800 + p.abufBytes ≤ off ∧ off < 0x1000)) : regAt p off = .reserved := by
  obtain ⟨_, hd, _, _, _, _⟩ := hp
  have hdb : dbufBase = 0x400 := rfl
  have hab : abufBase = 0x800 := rfl
  rw [regAt_buffers p (by omega), if_neg (by omega), if_neg (by omega)]
  exact singleReg_reserved (by omega)

/-- A register that is readable while busy answers its value, busy or idle (spec 20 R93). -/
theorem State.hostRead_of_readableBusy (s : State) (off : Nat) (h : (regAt s.params off).readableBusy = true) :
    s.hostRead off = s.answer (.data (s.readReg (regAt s.params off))) := by
  simp [State.hostRead, h]

/-- Settles O26: these offsets are reserved (`regAt_reserved`), and a reserved offset reads 0 and ignores writes, busy
or idle. -/
theorem reservedOffsetsReadZero : Obligations.ReservedOffsetsReadZero := by
  intro s off w hp _ hoff
  have hr := regAt_reserved hp hoff
  constructor
  · rw [s.hostRead_of_readableBusy off (by rw [hr]; rfl), hr]
    rfl
  · exact s.hostWrite_of_same s off w (by rw [hr]; rfl) (by rw [hr]; rfl)

/-! No host access depends on a key byte -/

theorem readReg_withoutKeys (s : State) (r : Reg) : s.withoutKeys.readReg r = s.readReg r := by
  cases r with
  | keyctl n => cases n <;> rfl
  | _ => rfl

theorem hostRead_withoutKeys (s : State) (off : Nat) : s.withoutKeys.hostRead off = (s.hostRead off).withoutKeys := by
  have hbusy : s.withoutKeys.busy = s.busy := rfl
  have hparams : s.withoutKeys.params = s.params := rfl
  simp only [State.hostRead, hbusy, hparams, readReg_withoutKeys]
  split
  · rfl
  · rfl

theorem softReset_withoutKeys (s : State) : s.withoutKeys.softReset = s.softReset := by
  unfold State.softReset
  rfl

/-- What CTRL takes is no key byte, and a soft reset forgets them all (spec 10 R36, R65). -/
theorem writeCtrl_withoutKeys (s : State) (w : Word) :
    (s.withoutKeys.writeCtrl w).withoutKeys = (s.writeCtrl w).withoutKeys := by
  cases hw : w.getLsbD 1
  · rw [State.writeCtrl_irqEn _ hw, State.writeCtrl_irqEn _ hw]; rfl
  · rw [State.writeCtrl_softReset _ hw, State.writeCtrl_softReset _ hw, softReset_withoutKeys]

theorem writeReg_withoutKeys (s : State) (r : Reg) (w : Word) :
    (s.withoutKeys.writeReg r w).withoutKeys = (s.writeReg r w).withoutKeys := by
  cases r with
  | ctrl => exact writeCtrl_withoutKeys s w
  | keyctl n | key n k => cases n <;> rfl
  | _ => rfl

theorem writeRegBusy_withoutKeys (s : State) (r : Reg) (w : Word) :
    (s.withoutKeys.writeRegBusy r w).withoutKeys = (s.writeRegBusy r w).withoutKeys := by
  cases r with
  | ctrl => exact writeCtrl_withoutKeys s w
  | _ => rfl

theorem answer_withoutKeys (s : State) (r : Response) : (s.answer r).withoutKeys = s.withoutKeys.answer r := rfl

theorem hostWrite_withoutKeys (s : State) (off : Nat) (w : Word) :
    (s.withoutKeys.hostWrite off w).withoutKeys = (s.hostWrite off w).withoutKeys := by
  have hbusy : s.withoutKeys.busy = s.busy := rfl
  have hparams : s.withoutKeys.params = s.params := rfl
  simp only [State.hostWrite, hbusy, hparams, answer_withoutKeys]
  cases s.busy
  · exact congrArg (State.answer · .written) (writeReg_withoutKeys s _ w)
  · exact congrArg (State.answer · .written) (writeRegBusy_withoutKeys s _ w)

/-- Settles O25: two states that differ in key bytes only take the same access to states that do, since a read and a
write commute with blanking the key bytes, and the answers are among what is left. -/
theorem hostCannotSeeKeys : Obligations.HostCannotSeeKeys := by
  intro s s' t a hs ht
  have hparams : s.withoutKeys.params = s'.withoutKeys.params := by rw [hs]
  suffices ∃ t', hostAccess a s' = .next t' ∧ t.withoutKeys = t'.withoutKeys by
    obtain ⟨t', ht', heq⟩ := this
    exact ⟨t', ht', heq, congrArg (fun u => u.host.responses) heq⟩
  obtain ⟨off, ho, hcase⟩ := hostAccess_cases ht
  have ho : a.offset s'.params = some off := hparams ▸ ho
  rcases hcase with ⟨hw, hk, rfl⟩ | ⟨m, w, hw, hk, rfl⟩ | ⟨hw, rfl⟩
  · refine ⟨s'.hostRead off, by simp only [hostAccess, ho, hw, hk, if_true], ?_⟩
    rw [← hostRead_withoutKeys, hs, hostRead_withoutKeys]
  · refine ⟨s'.hostWrite off w, by simp only [hostAccess, ho, hw, hk, if_true], ?_⟩
    rw [← hostWrite_withoutKeys, hs, hostWrite_withoutKeys]
  · refine ⟨s'.answer .busError, by simp [hostAccess, ho, hw], ?_⟩
    rw [answer_withoutKeys, hs, answer_withoutKeys]

end Sys2Proof.Machine
end

section
/-! PROOFS of the state family (spec 10), part 3: the bytes and words of register groups (spec 20 R84), the register map
read from register to offset (R32), what each register shows, and what a register write reads back as (R36, R45 to
R58). -/

namespace Sys2Proof.Machine

open Sys2Proof

/-! Bytes and words of a register group (spec 20 R84) -/

theorem leBytes_getElem (n x i : Nat) (h : i < (leBytes n x).length) :
    (leBytes n x)[i] = BitVec.ofNat 8 (x / 2 ^ (8 * i)) := by
  induction n generalizing x i with
  | zero => simp [leBytes] at h
  | succ n ih =>
    cases i with
    | zero => simp [leBytes]
    | succ i =>
      have hpow : (2 : Nat) ^ (8 * (i + 1)) = 256 * 2 ^ (8 * i) := by rw [Nat.mul_succ, Nat.pow_add]; omega
      simp only [leBytes, List.getElem_cons_succ]
      rw [ih, Nat.div_div_eq_div_mul, hpow]

/-- Byte i of a register group is bits [8i+7 : 8i] (spec 20 R84). -/
theorem unpack_getElem {w : Nat} (n : Nat) (v : BitVec w) (i : Nat) (h : i < (unpack n v).length) :
    (unpack n v)[i] = v.extractLsb' (8 * i) 8 := by
  apply BitVec.eq_of_toNat_eq
  simp only [unpack, leBytes_getElem, BitVec.toNat_ofNat, BitVec.extractLsb'_toNat, Nat.shiftRight_eq_div_pow]

/-- The bits after a word write: those of the word where it lies, as many as the group holds, the old ones elsewhere. -/
theorem setWord_getLsbD {w : Nat} (v : BitVec w) (k : Nat) (d : Word) (i : Nat) :
    (setWord v k d).getLsbD i =
      if 32 * k ≤ i ∧ i < 32 * k + 32 then decide (i < w) && d.getLsbD (i - 32 * k) else v.getLsbD i := by
  have ones : ∀ j, (0xFFFFFFFF#32).getLsbD j = decide (j < 32) := fun j => by
    rw [show (0xFFFFFFFF#32) = BitVec.allOnes 32 from rfl, BitVec.getLsbD_allOnes]
  simp only [setWord, BitVec.getLsbD_or, BitVec.getLsbD_and, BitVec.getLsbD_not, BitVec.getLsbD_shiftLeft,
    BitVec.getLsbD_setWidth, ones]
  by_cases hw : i < w
  · by_cases hlo : i < 32 * k
    · simp [hw, hlo]
    · have hsub : i - 32 * k < w := by omega
      by_cases hhi : i < 32 * k + 32
      · simp [hw, hlo, hhi, hsub, show i - 32 * k < 32 by omega, show 32 * k ≤ i by omega]
      · have hd : d.getLsbD (i - 32 * k) = false := BitVec.getLsbD_of_ge _ _ (by omega)
        simp [hw, hlo, hhi, hd, show ¬(i - 32 * k < 32) by omega]
  · simp [hw, BitVec.getLsbD_of_ge v i (Nat.not_lt.1 hw)]

/-- A byte of a word is a byte of its group (spec 20 R84). -/
theorem getWord_byte {w : Nat} (v : BitVec w) (k i : Nat) (h : i < 4) :
    (getWord v k).extractLsb' (8 * i) 8 = v.extractLsb' (8 * (4 * k + i)) 8 := by
  apply BitVec.eq_of_getLsbD_eq
  intro j hj
  have hin : 8 * i + j < 32 := by omega
  have hpos : 32 * k + (8 * i + j) = 8 * (4 * k + i) + j := by omega
  simp only [getWord, BitVec.getLsbD_extractLsb', hj, hin, hpos, decide_true, Bool.true_and]

/-- The four bytes of word k are bytes 4k to 4k+3 of the group (spec 20 R84). -/
theorem unpack_word {w : Nat} (n : Nat) (v : BitVec w) (k : Nat) (h : 4 * k + 4 ≤ n) :
    ((unpack n v).drop (4 * k)).take 4 = unpack 4 (getWord v k) := by
  apply List.ext_getElem
  · simp; omega
  · intro i hi hi'
    rw [unpack_length] at hi'
    rw [List.getElem_take, List.getElem_drop, unpack_getElem, unpack_getElem, getWord_byte v k i hi']

/-- Word k of a group, as the number its four bytes stand for (spec 20 R84). -/
theorem getWord_eq_fromLE {w : Nat} (n : Nat) (v : BitVec w) (k : Nat) (h : 4 * k + 4 ≤ n) :
    getWord v k = BitVec.ofNat 32 (fromLE (((unpack n v).drop (4 * k)).take 4)) := by
  rw [unpack_word n v k h]
  exact (pack_unpack 4 (getWord v k) rfl).symm

/-- The bytes after a word write that lies in the group: four of the word, the old ones elsewhere (spec 20 R84). -/
theorem setWord_byte {w : Nat} (v : BitVec w) (k : Nat) (d : Word) (i : Nat) (h : 32 * k + 32 ≤ w) :
    (setWord v k d).extractLsb' (8 * i) 8 =
      if 4 * k ≤ i ∧ i < 4 * k + 4 then d.extractLsb' (8 * (i - 4 * k)) 8 else v.extractLsb' (8 * i) 8 := by
  apply BitVec.eq_of_getLsbD_eq
  intro j hj
  rw [BitVec.getLsbD_extractLsb', setWord_getLsbD]
  by_cases hi : 4 * k ≤ i ∧ i < 4 * k + 4
  · rw [if_pos hi, if_pos (by omega), BitVec.getLsbD_extractLsb']
    have hpos : 8 * i + j - 32 * k = 8 * (i - 4 * k) + j := by omega
    simp [hpos, show 8 * i + j < w by omega]
  · rw [if_neg hi, if_neg (by omega), BitVec.getLsbD_extractLsb']

/-- A word write into a byte string held in registers replaces its four bytes (spec 20 R84, spec 10 R53). -/
theorem unpack_setWord {w : Nat} (n : Nat) (v : BitVec w) (k : Nat) (d : Word) (hn : 4 * k + 4 ≤ n)
    (hw : 32 * k + 32 ≤ w) :
    unpack n (setWord v k d) =
      (unpack n v).take (4 * k) ++ leBytes 4 d.toNat ++ (unpack n v).drop (4 * k + 4) := by
  rw [show leBytes 4 d.toNat = unpack 4 d from rfl]
  apply List.ext_getElem
  · simp; omega
  · intro i hi _
    rw [unpack_length] at hi
    rw [unpack_getElem, setWord_byte v k d i hw]
    by_cases hlo : i < 4 * k
    · rw [if_neg (by omega), List.getElem_append_left (by simp; omega), List.getElem_append_left (by simp; omega),
        List.getElem_take, unpack_getElem]
    · by_cases hhi : i < 4 * k + 4
      · rw [if_pos (by omega), List.getElem_append_left (by simp; omega), List.getElem_append_right (by simp; omega),
          unpack_getElem]
        congr 2
        simp; omega
      · rw [if_neg (by omega), List.getElem_append_right (by simp; omega), List.getElem_drop, unpack_getElem]
        congr 2
        simp; omega

/-! Key slots -/

/-- The slots after one of them is replaced (spec 10 R52). -/
theorem State.withSlot_slot (s : State) (n m : SlotSel) (k : KeySlot) :
    (s.withSlot n k).slot m = if m = n then k else s.slot m := by
  cases n <;> cases m <;> rfl

/-- Settles O28: the key bytes follow `unpack_setWord`, the other slot `State.withSlot_slot`. -/
theorem keyWordWritesFourBytes : Obligations.KeyWordWritesFourBytes := by
  intro s n j w _ hj
  have hslot : (s.writeReg (.key n j) w).slot n = (s.slot n).withKeyWord j w := by
    rw [State.writeReg, State.withSlot_slot, if_pos rfl]
  refine ⟨?_, by rw [hslot]; rfl, by rw [hslot]; rfl, fun m hm => ?_, ?_⟩
  · rw [hslot]
    exact unpack_setWord 32 (s.slot n).key j w (by omega) (by omega)
  · rw [State.writeReg, State.withSlot_slot, if_neg hm]
  · cases n <;> rfl

end Sys2Proof.Machine
end

section
/-! PROOFS of the state family (spec 10), part 4: the register map read from register to offset (R32), and what the
read-only registers, STATUS and the buffer words show (R33 to R48, R53, R56, R57, spec 20 R84 to R86). -/

namespace Sys2Proof.Machine

open Sys2Proof

/-! The map, group by group -/

theorem regAt_nonce (p : Params) {k : Nat} (h : k < 4) : regAt p (0x040 + 4 * k) = .nonce k := by
  rw [regAt, if_pos (by omega)]
  exact congrArg Reg.nonce (by omega)

theorem regAt_tag (p : Params) {k : Nat} (h : k < 4) : regAt p (0x050 + 4 * k) = .tag k := by
  rw [regAt, if_neg (by omega), if_pos (by omega)]
  exact congrArg Reg.tag (by omega)

theorem regAt_key0 (p : Params) {k : Nat} (h : k < 8) : regAt p (0x080 + 4 * k) = .key .slot0 k := by
  rw [regAt, if_neg (by omega), if_neg (by omega), if_pos (by omega)]
  exact congrArg (Reg.key .slot0) (by omega)

theorem regAt_key1 (p : Params) {k : Nat} (h : k < 8) : regAt p (0x0A0 + 4 * k) = .key .slot1 k := by
  rw [regAt, if_neg (by omega), if_neg (by omega), if_neg (by omega), if_pos (by omega)]
  exact congrArg (Reg.key .slot1) (by omega)

theorem regAt_out (p : Params) {k : Nat} (h : k < 8) : regAt p (0x0C0 + 4 * k) = .out k := by
  rw [regAt, if_neg (by omega), if_neg (by omega), if_neg (by omega), if_neg (by omega), if_pos (by omega)]
  exact congrArg Reg.out (by omega)

theorem regAt_digest (p : Params) {k : Nat} (h : k < 8) : regAt p (0x0E0 + 4 * k) = .digest k := by
  rw [regAt, if_neg (by omega), if_neg (by omega), if_neg (by omega), if_neg (by omega), if_neg (by omega),
    if_pos (by omega)]
  exact congrArg Reg.digest (by omega)

theorem regAt_keyctl (p : Params) (n : SlotSel) : regAt p (Reg.offset (.keyctl n)) = .keyctl n := by
  have hdb : dbufBase = 0x400 := rfl
  have hab : abufBase = 0x800 := rfl
  have hoff : Reg.offset (.keyctl n) = 0x060 ∨ Reg.offset (.keyctl n) = 0x064 := by cases n <;> simp [Reg.offset]
  rw [regAt_buffers p (by omega), if_neg (by omega), if_neg (by omega)]
  cases n <;> rfl

theorem regAt_dbufWord {p : Params} {o : Nat} (h : o < p.dbufBytes) : regAt p (dbufBase + o) = .dbuf o := by
  have hdb : dbufBase = 0x400 := rfl
  rw [regAt_buffers p (by omega), if_pos (by omega)]
  exact congrArg Reg.dbuf (by omega)

/-- The ABUF window does not meet the DBUF window, whose size is at most 1024 (spec 00 R7, spec 20 R85, R86). -/
theorem regAt_abufWord {p : Params} {o : Nat} (hd : p.dbufBytes ≤ 1024) (h : o < p.abufBytes) :
    regAt p (abufBase + o) = .abuf o := by
  have hdb : dbufBase = 0x400 := rfl
  have hab : abufBase = 0x800 := rfl
  rw [regAt_buffers p (by omega), if_neg (by omega), if_pos (by omega)]
  exact congrArg Reg.abuf (by omega)

/-- A register of the map stands at its offset (spec 10 R32). -/
theorem regAt_named {p : Params} {r : Reg} (hp : p.Legal) (hr : r.named p) : regAt p r.offset = r := by
  obtain ⟨_, hd, _⟩ := hp
  cases r with
  | nonce k => exact regAt_nonce p hr
  | tag k => exact regAt_tag p hr
  | keyctl n => exact regAt_keyctl p n
  | key n k =>
    cases n with
    | slot0 => exact regAt_key0 p hr
    | slot1 => exact regAt_key1 p hr
  | out k => exact regAt_out p hr
  | digest k => exact regAt_digest p hr
  | dbuf o => exact regAt_dbufWord hr.2
  | abuf o => exact regAt_abufWord hd hr.2
  | reserved => exact hr.elim
  | _ => exact regAt_low p (by decide)

/-- The offset of a register of the map is word-aligned and in the window (spec 10 R32, spec 20 R80). -/
theorem Reg.offset_named {p : Params} {r : Reg} (hp : p.Legal) (hr : r.named p) :
    r.offset % 4 = 0 ∧ r.offset < 4096 := by
  obtain ⟨_, hd, _, ha, _⟩ := hp
  have hdb : dbufBase = 0x400 := rfl
  have hab : abufBase = 0x800 := rfl
  cases r with
  | keyctl n => cases n <;> decide
  | key n k =>
    simp only [Reg.named] at hr
    cases n <;> simp only [Reg.offset] <;> omega
  | nonce k | tag k | out k | digest k | dbuf o | abuf o =>
    simp only [Reg.named] at hr
    simp only [Reg.offset]
    omega
  | _ => decide

/-! Accesses of a named register -/

section idle

variable {s : State} {r : Reg} (hp : s.params.Legal) (hb : s.busy = false) (hr : r.named s.params)
include hp hb hr

/-- While idle the bus reads a named register at its offset (spec 10 R32). -/
theorem State.hostRead_named : s.hostRead r.offset = s.answer (.data (s.readReg r)) := by
  rw [State.hostRead_idle hb, regAt_named hp hr]

/-- While idle the bus writes a named register at its offset (spec 10 R32). -/
theorem State.hostWrite_named (w : Word) : s.hostWrite r.offset w = (s.writeReg r w).answer .written := by
  rw [State.hostWrite_idle hb, regAt_named hp hr]

/-- A named register shows the number its word is. -/
theorem State.shows_named {v : Nat} (hv : s.readReg r = BitVec.ofNat 32 v) : s.Shows r.offset v := by
  rw [State.Shows, State.hostRead_named hp hb hr, hv]

end idle

/-- A read-only register ignores writes (spec 10 R32). -/
theorem State.writeReg_of_ro (s : State) {r : Reg} (w : Word) (h : r.access = .ro) : s.writeReg r w = s := by
  cases r with
  | id | version | param | result | olen | ccmstat | out | digest => rfl
  | _ => cases h

/-- The offsets of OUT and DIGEST hold read-only registers only (spec 10 R32). -/
theorem Reg.ro_of_offset {p : Params} {r : Reg} (hr : r.named p) (h : 0x0C0 ≤ r.offset ∧ r.offset < 0x100) :
    r.access = .ro := by
  have hdb : dbufBase = 0x400 := rfl
  have hab : abufBase = 0x800 := rfl
  cases r with
  | out k | digest k => rfl
  | keyctl n => cases n <;> exact absurd h (by decide)
  | key n k =>
    simp only [Reg.named] at hr
    cases n <;> simp only [Reg.offset] at h <;> omega
  | nonce k | tag k | dbuf o | abuf o =>
    simp only [Reg.named] at hr
    simp only [Reg.offset] at h
    omega
  | _ => exact absurd h (by decide)

/-! The words of PARAM, CTRL and CCMSTAT as numbers -/

theorem append_toNat_eq_add {n m : Nat} (x : BitVec n) (y : BitVec m) :
    (x ++ y).toNat = x.toNat * 2 ^ m + y.toNat := by
  rw [BitVec.toNat_append, ← Nat.shiftLeft_add_eq_or_of_lt y.isLt, Nat.shiftLeft_eq]

/-- PARAM is the sum of its fields when the sizes fit in them (spec 10 R35). -/
theorem paramWord_eq {p : Params} (hp : p.Legal) :
    paramWord p = BitVec.ofNat 32 (p.abufBytes * 2 ^ 16 + p.dbufBytes) := by
  obtain ⟨_, hd, _, ha, _⟩ := hp
  apply BitVec.eq_of_toNat_eq
  simp only [paramWord, append_toNat_eq_add, BitVec.toNat_ofNat]
  omega

/-- CTRL shows IRQ_EN alone (spec 10 R36). -/
theorem State.ctrlWord_eq (s : State) : s.ctrlWord = BitVec.ofNat 32 s.irqEn.toNat := by
  rw [State.ctrlWord]
  cases s.irqEn <;> rfl

/-- Three fields of a word at bits 0, 8 and 16, of 5, 4 and 6 bits, as a number. -/
theorem ccmstatFields_eq (klen : BitVec 6) (ns : BitVec 4) (m : BitVec 5) :
    (0#10 ++ klen ++ 0#4 ++ ns ++ 0#3 ++ m : BitVec (10 + 6 + 4 + 4 + 3 + 5)) =
      BitVec.ofNat 32 (m.toNat + ns.toNat * 2 ^ 8 + klen.toNat * 2 ^ 16) := by
  have hm := m.isLt
  have hns := ns.isLt
  have hk := klen.isLt
  apply BitVec.eq_of_toNat_eq
  simp only [append_toNat_eq_add, BitVec.toNat_ofNat]
  omega

/-- CCMSTAT is the sum of its fields, or 0 while CCM_READY = 0 (spec 10 R48). -/
theorem State.ccmstatWord_eq (s : State) : s.ccmstatWord = BitVec.ofNat 32 s.ccmstatNumber := by
  rw [State.ccmstatWord, State.ccmstatNumber]
  split
  · exact ccmstatFields_eq _ _ _
  · rfl

/-- Settles O29: the map is read by `regAt_named`, a read-only register ignores writes (`State.writeReg_of_ro`), and
each register's word is the number the statement gives. -/
theorem registersAtTheirOffsets : Obligations.RegistersAtTheirOffsets := by
  intro s r hp hr
  refine ⟨⟨regAt_named hp hr, Reg.offset_named hp hr⟩, fun hb => ?_⟩
  have shows {q : Reg} {v : Nat} (hq : q.named s.params) (hv : s.readReg q = BitVec.ofNat 32 v) :
      s.Shows q.offset v := State.shows_named hp hb hq hv
  refine ⟨State.hostRead_named hp hb hr, State.hostWrite_named hp hb hr, fun hro w => ?_,
    shows (q := .id) trivial rfl, shows (q := .version) trivial rfl, shows (q := .param) trivial (paramWord_eq hp),
    shows (q := .ctrl) trivial s.ctrlWord_eq, shows (q := .cmd) trivial ((BitVec.ofNat_toNat _ _).trans (BitVec.setWidth_eq _)).symm,
    shows (q := .status) trivial s.statusWord_eq, shows (q := .result) trivial s.resultWord_eq,
    shows (q := .olen) trivial (BitVec.ofNat_toNat _ _).symm, shows (q := .ccmstat) trivial s.ccmstatWord_eq,
    fun k hk => ⟨?_, ?_, ?_, ?_⟩, fun o ho => ⟨fun hlt => ?_, fun hlt => ?_⟩⟩
  · have haccess : r.access = .ro := by
      rcases hro with hmem | hoff
      · simp only [List.mem_cons, List.not_mem_nil, or_false] at hmem
        rcases hmem with rfl | rfl | rfl | rfl | rfl | rfl <;> rfl
      · exact Reg.ro_of_offset hr hoff
    rw [State.hostWrite_named hp hb hr, s.writeReg_of_ro w haccess]
  · exact shows (q := .out k) hk (getWord_eq_fromLE 32 s.out k (by omega))
  · exact shows (q := .digest k) hk (getWord_eq_fromLE 32 s.digest k (by omega))
  · exact shows (q := .key .slot0 k) hk rfl
  · exact shows (q := .key .slot1 k) hk rfl
  · exact shows (q := .dbuf o) ⟨ho, hlt⟩ rfl
  · exact shows (q := .abuf o) ⟨ho, hlt⟩ rfl

end Sys2Proof.Machine
end

section
/-! PROOFS of the state family (spec 10), part 5: what a register write reads back as, and what it leaves unchanged
(R36, R45 to R52, R55, R58 to R60, R62). -/

namespace Sys2Proof.Machine

open Sys2Proof

/-! The implemented bits of each register -/

/-- A register of one field at bit 0 holds the bits of its mask. -/
theorem lowField_eq_mask {n : Nat} {mask : Word} (w : Word) (hmask : ∀ i < 32, mask.getLsbD i = decide (i < n)) :
    (w.extractLsb' 0 n).setWidth 32 = w &&& mask := by
  apply BitVec.eq_of_getLsbD_eq
  intro i hi
  rw [BitVec.getLsbD_and, hmask i hi]
  simp [hi, Bool.and_comm]

/-- A register of two fields, of n bits at bit 0 and of m bits at bit 8, holds the bits of its mask. -/
theorem twoFields_getLsbD {a m b n : Nat} {mask : Word} (w : Word) (hb : b + n = 8)
    (hmask : ∀ i < 32, mask.getLsbD i = (decide (i < n) || decide (8 ≤ i ∧ i < 8 + m))) (i : Nat) (hi : i < 32) :
    (0#a ++ w.extractLsb' 8 m ++ 0#b ++ w.extractLsb' 0 n).getLsbD i = (w &&& mask).getLsbD i := by
  rw [BitVec.getLsbD_and, hmask i hi]
  simp only [BitVec.getLsbD_append, BitVec.getLsbD_extractLsb', BitVec.getLsbD_zero]
  by_cases hlow : i < n
  · simp [hlow]
  · by_cases h8 : i < 8
    · simp [hlow, show i - n < b by omega, show ¬(8 ≤ i) by omega]
    · have hsub : i - n - b = i - 8 := by omega
      have hadd : 8 + (i - 8) = i := by omega
      by_cases hhigh : i < 8 + m
      · simp [hlow, hsub, hadd, hhigh, show ¬(i - n < b) by omega, show i - 8 < m by omega, show 8 ≤ i by omega]
      · simp [hlow, hsub, hhigh, show ¬(i - n < b) by omega, show ¬(i - 8 < m) by omega]

theorem ofBool_getLsbD (w : Word) (k : Nat) : BitVec.ofBool (w.getLsbD k) = w.extractLsb' k 1 := by
  apply BitVec.eq_of_getLsbD_eq
  intro i hi
  obtain rfl : i = 0 := by omega
  simp

/-- The type field of KEYCTLn reads back (spec 10 R52). -/
theorem KeyType.value_ofValue : ∀ v : BitVec 2, (KeyType.ofValue v).value = v := by decide

/-- A word of NONCE reads back its implemented bits: NONCE has 13 bytes, so word 3 holds 8 bits (spec 10 R51). -/
theorem getWord_setWord_nonce (v : BitVec 104) {k : Nat} (w : Word) (hk : k < 4) :
    getWord (setWord v k w) k = w &&& Reg.mask (.nonce k) := by
  have hmask : ∀ k < 4, ∀ i < 32, (Reg.mask (.nonce k)).getLsbD i = decide (32 * k + i < 104) := by decide
  apply BitVec.eq_of_getLsbD_eq
  intro i hi
  rw [getWord, BitVec.getLsbD_extractLsb', setWord_getLsbD, if_pos (by omega), BitVec.getLsbD_and, hmask k hk i hi,
    Nat.add_sub_cancel_left]
  simp [hi, Bool.and_comm]

/-! Reading back -/

section write

variable (s : State) (w : Word)

/-- A RW register reads back the implemented bits of what was written (spec 10 R45 to R52, R55, R58). -/
theorem readReg_writeReg {r : Reg} (hr : r.named s.params) (hm : r.mask ≠ 0) :
    (s.writeReg r w).readReg r = w &&& r.mask := by
  have all : w &&& 0xFFFFFFFF = w := BitVec.and_allOnes
  cases r with
  | len | alen => exact lowField_eq_mask w (by decide)
  | ccmcfg => exact BitVec.eq_of_getLsbD_eq (twoFields_getLsbD (a := 20) (b := 3) w rfl (by decide))
  | env =>
    simp only [State.writeReg, State.readReg, State.envWord, ofBool_getLsbD]
    exact BitVec.eq_of_getLsbD_eq (twoFields_getLsbD (a := 23) (b := 6) w rfl (by decide))
  | keyctl n =>
    simp only [State.writeReg, State.readReg, State.withSlot_slot, if_true, KeySlot.ctlWord, KeySlot.withCtl,
      KeyType.value_ofValue]
    exact BitVec.eq_of_getLsbD_eq (twoFields_getLsbD (a := 18) (b := 6) (mask := 0x00003F03) w rfl (by decide))
  | pktid | sender | xnonce => exact all.symm
  | nonce k => exact getWord_setWord_nonce s.nonce w hr
  | tag k =>
    have hk : k < 4 := hr
    exact (getWord_setWord s.tag k w (by omega)).trans all.symm
  | dbuf o =>
    have hb := s.writeMem_bytesAt (dbufBase + o) (leBytes 4 w.toNat)
    rw [leBytes_length] at hb
    exact (congrArg (pack 32) hb).trans ((pack_unpack 4 w rfl).trans all.symm)
  | abuf o =>
    have hb := s.writeMem_bytesAt (abufBase + o) (leBytes 4 w.toNat)
    rw [leBytes_length] at hb
    exact (congrArg (pack 32) hb).trans ((pack_unpack 4 w rfl).trans all.symm)
  | id | version | param | ctrl | cmd | status | result | olen | ccmstat | key | out | digest | reserved =>
    exact absurd rfl hm

/-- A write to a key slot shows in its own KEYCTLn only (spec 10 R52, R53). -/
theorem readReg_withSlot (n : SlotSel) (k : KeySlot) {q : Reg} (hq : q ≠ .keyctl n) :
    (s.withSlot n k).readReg q = s.readReg q := by
  cases q with
  | keyctl m =>
    have hmn : m ≠ n := fun h => hq (congrArg Reg.keyctl h)
    simp only [State.readReg, State.withSlot_slot, if_neg hmn]
  | _ => cases n <;> rfl

/-- A word written to a buffer shows in that word only: the words of a buffer do not overlap, nor do the buffers
(spec 20 R85, R86). -/
theorem readReg_writeMem {base : Nat} {q : Reg}
    (hd : ∀ o, q = .dbuf o → dbufBase + o + 4 ≤ base ∨ base + 4 ≤ dbufBase + o)
    (ha : ∀ o, q = .abuf o → abufBase + o + 4 ≤ base ∨ base + 4 ≤ abufBase + o) :
    (s.writeMem base (leBytes 4 w.toNat)).readReg q = s.readReg q := by
  have outside (lo : Nat) (h : lo + 4 ≤ base ∨ base + 4 ≤ lo) :
      (s.writeMem base (leBytes 4 w.toNat)).bytesAt lo 4 = s.bytesAt lo 4 :=
    s.writeMem_bytesAt_outside base _ lo 4 (by rwa [leBytes_length])
  cases q with
  | dbuf o => exact congrArg (pack 32) (outside _ (hd o rfl))
  | abuf o => exact congrArg (pack 32) (outside _ (ha o rfl))
  | keyctl n => cases n <;> rfl
  | _ => rfl

/-- A write to a RW register shows in no other register (spec 10 R45 to R52, R55, R58). -/
theorem readReg_writeReg_ne {r q : Reg} (hp : s.params.Legal) (hr : r.named s.params) (hm : r.mask ≠ 0)
    (hq : q.named s.params) (hne : q ≠ r) : (s.writeReg r w).readReg q = s.readReg q := by
  obtain ⟨_, hdmax, hd16, _, ha4, _⟩ := hp
  have hdb : dbufBase = 0x400 := rfl
  have hab : abufBase = 0x800 := rfl
  cases r with
  | len | alen | ccmcfg | pktid | sender | xnonce | env =>
    cases q with
    | keyctl n => cases n <;> rfl
    | _ => first | rfl | exact absurd rfl hne
  | nonce k =>
    cases q with
    | nonce j => exact getWord_setWord_ne s.nonce k j w fun h => hne (h ▸ rfl)
    | keyctl n => cases n <;> rfl
    | _ => rfl
  | tag k =>
    cases q with
    | tag j => exact getWord_setWord_ne s.tag k j w fun h => hne (h ▸ rfl)
    | keyctl n => cases n <;> rfl
    | _ => rfl
  | keyctl n => exact readReg_withSlot s n _ hne
  | dbuf o =>
    obtain ⟨ho, hlt⟩ := hr
    refine readReg_writeMem s w ?_ ?_
    · rintro o' rfl
      obtain ⟨ho', hlt'⟩ := hq
      have : o' ≠ o := fun h => hne (h ▸ rfl)
      omega
    · rintro o' rfl
      omega
  | abuf o =>
    obtain ⟨ho, hlt⟩ := hr
    refine readReg_writeMem s w ?_ ?_
    · rintro o' rfl
      obtain ⟨ho', hlt'⟩ := hq
      omega
    · rintro o' rfl
      obtain ⟨ho', hlt'⟩ := hq
      have : o' ≠ o := fun h => hne (h ▸ rfl)
      omega
  | id | version | param | ctrl | cmd | status | result | olen | ccmstat | key | out | digest | reserved =>
    exact absurd rfl hm

/-! What a register write leaves unchanged -/

/-- What no write to the RW register r changes in u: the key bytes, the slots but for their own KEYCTL, the CCM latch,
DKEY, the sequencer, the parameters and the host's side (spec 10 R52, R53, R59, R60). -/
structure KeptByWriteTo (r : Reg) (s u : State) : Prop where
  key : ∀ n, (u.slot n).key = (s.slot n).key
  slot : ∀ n, r ≠ .keyctl n → u.slot n = s.slot n
  latch : u.latch = s.latch
  dkey : u.dkey = s.dkey
  dkeyValid : u.dkeyValid = s.dkeyValid
  seq : u.seq = s.seq
  params : u.params = s.params
  host : u.host = s.host

/-- A write of KEYCTLn keeps the key bytes of its slot (spec 10 R52). -/
theorem writeKeyctl_kept (n : SlotSel) : KeptByWriteTo (.keyctl n) s (s.writeReg (.keyctl n) w) where
  key m := by
    rw [State.writeReg, State.withSlot_slot]
    split
    next h => rw [h]; rfl
    next => rfl
  slot m hm := by
    have hmn : m ≠ n := fun h => hm (congrArg Reg.keyctl h.symm)
    rw [State.writeReg, State.withSlot_slot, if_neg hmn]
  latch := by cases n <;> rfl
  dkey := by cases n <;> rfl
  dkeyValid := by cases n <;> rfl
  seq := by cases n <;> rfl
  params := by cases n <;> rfl
  host := by cases n <;> rfl

theorem writeReg_kept {r : Reg} (hm : r.mask ≠ 0) : KeptByWriteTo r s (s.writeReg r w) := by
  have slots {u : State} (h0 : u.slot0 = s.slot0) (h1 : u.slot1 = s.slot1) (n : SlotSel) : u.slot n = s.slot n := by
    cases n
    · exact h0
    · exact h1
  cases r with
  | keyctl n => exact writeKeyctl_kept s w n
  | len | alen | ccmcfg | pktid | sender | xnonce | env | nonce | tag | dbuf | abuf =>
    exact ⟨fun n => congrArg KeySlot.key (slots rfl rfl n), fun n _ => slots rfl rfl n, rfl, rfl, rfl, rfl, rfl, rfl⟩
  | id | version | param | ctrl | cmd | status | result | olen | ccmstat | key | out | digest | reserved =>
    exact absurd rfl hm

end write

/-- The bus's answer shows in no register. -/
theorem readReg_answer (s : State) (a : Response) (q : Reg) : (s.answer a).readReg q = s.readReg q := by
  cases q with
  | keyctl n => cases n <;> rfl
  | _ => rfl

/-- Settles O27: after a write the register reads back by `readReg_writeReg`, every other register by
`readReg_writeReg_ne`, and the rest of the state stands by `writeReg_kept`. -/
theorem registerWritesReadBack : Obligations.RegisterWritesReadBack := by
  intro s w hp
  refine ⟨fun hw => ?_, fun hb r hr hm => ?_⟩
  · have hctrl : regAt s.params 0x00C = .ctrl := regAt_low s.params (by decide)
    exact s.hostWrite_of_same _ _ _ (by rw [hctrl]; exact s.writeCtrl_irqEn hw)
      (by rw [hctrl]; exact s.writeCtrl_irqEn hw)
  · obtain ⟨key, slot, latch, dkey, dkeyValid, seq, params, host⟩ := writeReg_kept s w hm
    rw [State.hostWrite_named hp hb hr w]
    intro t
    have hparams : t.params = s.params := params
    have hbusy : t.busy = false := by
      rw [State.busy_false_iff] at hb ⊢
      exact seq.trans hb
    have read {q : Reg} (hq : q.named s.params) :
        t.hostRead q.offset = t.answer (.data ((s.writeReg r w).readReg q)) := by
      rw [State.hostRead_named (hparams ▸ hp) hbusy (hparams ▸ hq), readReg_answer]
    refine ⟨?_, fun q hq hne => ?_, key, slot, latch, dkey, dkeyValid, seq, params, ?_⟩
    · rw [read hr, readReg_writeReg s w hr hm]
    · rw [read hq, readReg_writeReg_ne s w hp hr hm hq hne]
    · rw [State.answer_host, State.answer_host, host]

end Sys2Proof.Machine
end

section
/-! PROOFS of the memory family (spec 20): the shape of an access (R81, R82), what a read and a write do while a command
runs (R92, R93), that a read has no side effect (R88), and that a running command's operands stand still (R91). -/

namespace Sys2Proof.Machine

open Sys2Proof

/-! The shape of an access -/

/-- The accesses GQE performs (spec 20 R81). -/
theorem Access.wellShaped_iff (a : Access) (off : Nat) :
    a.wellShaped off = true ↔ a.width = .bits32 ∧ off % 4 = 0 ∧ ∀ m d, a.kind = .write m d → m = 0xF := by
  cases hk : a.kind with
  | read => simp [Access.wellShaped, hk]
  | write m d => simp [Access.wellShaped, hk, and_assoc]

section access

variable {s : State} {a : Access} {off : Nat} (ho : a.offset s.params = some off)
include ho

/-- A badly shaped access does nothing but be answered with the bus error (spec 20 R81, R82). -/
theorem hostAccess_badShape (h : ¬a.wellShaped off = true) : hostAccess a s = .next (s.answer .busError) := by
  simp [hostAccess, ho, h]

theorem hostAccess_read (h : a.wellShaped off = true) (hk : a.kind = .read) :
    hostAccess a s = .next (s.hostRead off) := by
  simp [hostAccess, ho, h, hk]

theorem hostAccess_write (h : a.wellShaped off = true) {m : BitVec 4} {d : Word} (hk : a.kind = .write m d) :
    hostAccess a s = .next (s.hostWrite off d) := by
  simp [hostAccess, ho, h, hk]

end access

/-- Settles O20: each bad shape breaks one clause of `Access.wellShaped_iff`, and the performed ones meet all three. -/
theorem badAccessGetsBusError : Obligations.BadAccessGetsBusError := by
  intro s a off ho
  refine ⟨fun hbad => hostAccess_badShape ho fun hw => ?_, fun hwidth halign => ⟨fun hk => ?_, fun d hk => ?_⟩⟩
  · obtain ⟨hwidth, halign, hmask⟩ := (a.wellShaped_iff off).1 hw
    rcases hbad with h | h | ⟨m, d, hk, h⟩
    · exact h hwidth
    · exact h halign
    · exact h (hmask m d hk)
  · exact hostAccess_read ho ((a.wellShaped_iff off).2 ⟨hwidth, halign, by simp [hk]⟩) hk
  · exact hostAccess_write ho ((a.wellShaped_iff off).2 ⟨hwidth, halign, by simp [hk]⟩) hk

/-! The map at the offsets that a busy access treats by name -/

/-- A register below the nonce is a single register (spec 10 R32). -/
theorem singleReg_of_offset_lt {r : Reg} (h : r.offset < 0x040) : singleReg r.offset = r := by
  cases r with
  | keyctl n | key n k => cases n <;> simp only [Reg.offset] at h <;> omega
  | nonce k | tag k | out k | digest k | dbuf o | abuf o | reserved =>
    simp only [Reg.offset, dbufBase, abufBase] at h
    omega
  | _ => rfl

theorem regAt_of_offset_lt (p : Params) {r : Reg} (h : r.offset < 0x040) : regAt p r.offset = r := by
  rw [regAt_low p h, singleReg_of_offset_lt h]

/-- Below the nonce a register stands at its own offset and nowhere else (spec 10 R32). -/
theorem regAt_eq_iff {off : Nat} (ha : off % 4 = 0) (p : Params) (r : Reg) (hr : r.offset < 0x040) :
    regAt p off = r ↔ off = r.offset := by
  constructor
  · intro h
    refine (regAt_offset ha h).resolve_left ?_
    rintro rfl
    exact absurd hr (by decide)
  · rintro rfl
    exact regAt_of_offset_lt p hr

/-- No single register is write-only (spec 10 R32). -/
theorem singleReg_access_ne_wo (off : Nat) : (singleReg off).access ≠ .wo := by
  unfold singleReg
  split <;> decide

/-- The write-only registers are the key words, 0x080 to 0x0BF (spec 10 R32, R53). -/
theorem regAt_wo_iff (p : Params) (off : Nat) : (regAt p off).access = .wo ↔ 0x080 ≤ off ∧ off < 0x0C0 := by
  have hdb : dbufBase = 0x400 := rfl
  have hab : abufBase = 0x800 := rfl
  unfold regAt
  split_ifs
  case neg => exact iff_of_false (singleReg_access_ne_wo off) (by omega)
  all_goals simp only [Reg.access, reduceCtorEq, true_iff, false_iff]; omega

/-! Writes and reads while a command runs -/

theorem State.hostWrite_busy {s : State} (h : s.busy = true) (off : Nat) (w : Word) :
    s.hostWrite off w = (s.writeRegBusy (regAt s.params off) w).answer .written := by
  simp [State.hostWrite, h]

/-- A busy write by the kind of its register: CTRL, STATUS, one the host cannot write, or any other (spec 20 R92). -/
theorem State.writeRegBusy_eq (s : State) (r : Reg) (w : Word) :
    s.writeRegBusy r w =
      if r = .ctrl then s.writeCtrl w
      else if r = .status then s.writeStatus w
      else if r.access = .ro ∨ r = .reserved then s
      else { s with wign := true } := by
  cases r with
  | ctrl | status => rfl
  | id | version | param | result | olen | ccmstat | out | digest | reserved => simp [State.writeRegBusy, Reg.access]
  | cmd | len | alen | ccmcfg | pktid | sender | xnonce | env => simp [State.writeRegBusy, Reg.access]
  | nonce | tag | keyctl | key | dbuf | abuf => simp [State.writeRegBusy, Reg.access]

/-- Settles O21: the busy write by the kind of its register (`State.writeRegBusy_eq`), with CTRL and STATUS the
registers at 0x00C and 0x014. -/
theorem busyWrites : Obligations.BusyWrites := by
  intro s off w hb ha
  have hctrl : regAt s.params off = .ctrl ↔ off = 0x00C := regAt_eq_iff ha s.params .ctrl (by decide)
  have hstatus : regAt s.params off = .status ↔ off = 0x014 := regAt_eq_iff ha s.params .status (by decide)
  rw [State.hostWrite_busy hb, State.writeRegBusy_eq]
  simp only [hctrl, hstatus]
  rfl

theorem State.hostRead_busy_responses {s : State} (h : s.busy = true) (off : Nat) :
    (s.hostRead off).host.responses =
      .data (if (regAt s.params off).readableBusy then s.readReg (regAt s.params off) else Config.busyRead s.draws) ::
        s.host.responses := by
  cases hr : (regAt s.params off).readableBusy <;> simp [State.hostRead, h, hr]

/-- The word of a busy read by the kind of its register; the write-only registers are the key words (spec 20 R93). -/
theorem State.busyReadWord_eq (s : State) (r : Reg) (v : Word) :
    (if r.readableBusy then s.readReg r else v) =
      if r = .id then idWord
      else if r = .version then versionWord
      else if r = .param then paramWord s.params
      else if r = .ctrl then s.ctrlWord
      else if r = .cmd then s.cmd
      else if r = .status then s.statusWord
      else if r.access = .wo ∨ r = .reserved then 0
      else v := by
  cases r with
  | id | version | param | ctrl | cmd | status => rfl
  | key | reserved => simp [Reg.readableBusy, Reg.access, State.readReg]
  | result | olen | len | alen | ccmcfg | ccmstat | pktid | sender | xnonce | env =>
    simp [Reg.readableBusy, Reg.access]
  | nonce | tag | keyctl | out | digest | dbuf | abuf => simp [Reg.readableBusy, Reg.access]

/-- PARAM is the sum of its 16-bit fields, whatever the sizes (spec 10 R35). -/
theorem paramWord_eq_mod (p : Params) :
    paramWord p = BitVec.ofNat 32 (p.abufBytes % 2 ^ 16 * 2 ^ 16 + p.dbufBytes % 2 ^ 16) := by
  apply BitVec.eq_of_toNat_eq
  simp only [paramWord, append_toNat_eq_add, BitVec.toNat_ofNat]
  omega

/-- STATUS while a command runs: BUSY is 1 (spec 10 R38 to R42). -/
theorem State.statusWord_busy {s : State} (h : s.busy = true) :
    s.statusWord = BitVec.ofNat 32 (1 + s.done.toNat * 2 + s.err.toNat * 4 + s.wign.toNat * 8 +
      s.latch.ready.toNat * 16 + s.dkeyValid.toNat * 32) := by
  obtain ⟨w, hw⟩ := s.busy_iff.1 h
  simp [State.statusWord_eq, State.statusNumber, hw]

/-- Settles O22: the busy read by the kind of its register (`State.busyReadWord_eq`), each named register at its offset
and the key words at 0x080 to 0x0BF. -/
theorem busyReads : Obligations.BusyReads := by
  intro s off hb ha
  have hnamed (r : Reg) (hr : r.offset < 0x040) : regAt s.params off = r ↔ off = r.offset :=
    regAt_eq_iff ha s.params r hr
  have hctrl : s.ctrlWord = if s.irqEn then 1 else 0 := by rw [State.ctrlWord_eq]; cases s.irqEn <;> rfl
  rw [State.hostRead_busy_responses hb, State.busyReadWord_eq]
  simp only [hnamed .id (by decide), hnamed .version (by decide), hnamed .param (by decide), hnamed .ctrl (by decide),
    hnamed .cmd (by decide), hnamed .status (by decide), regAt_wo_iff, Reg.offset, paramWord_eq_mod, hctrl,
    State.statusWord_busy hb]
  rfl

/-! Reads have no side effect -/

theorem State.hostRead_core (s : State) (off : Nat) : (s.hostRead off).core = s.core := by
  rcases s.hostRead_cases off with ⟨_, e⟩ | ⟨_, _, e⟩
  · rw [e]; rfl
  · rw [e]; rfl

/-- Settles O23: a read changes no part of `State.core`, and an idle read's own answer shows in no register
(`readReg_answer`), so the next one answers the same. -/
theorem readsHaveNoSideEffects : Obligations.ReadsHaveNoSideEffects := by
  refine fun s off => ⟨s.hostRead_core off, fun hb => ⟨s.readReg (regAt s.params off), ?_, ?_⟩⟩
  · rw [State.hostRead_idle hb]
    rfl
  · rw [State.hostRead_idle hb, State.hostRead_idle (by exact hb), readReg_answer]
    rfl

/-! Operands while a command runs -/

/-- The engine's turn of a running command is its completion, of a state that keeps the configuration (spec 60 R353). -/
theorem runWord_form (w : Word) (s : State) : ∃ u c d, runWord w s = .next (u.complete c d) ∧ Kept s u := by
  rcases runWord_cases w s with ⟨i, _, e⟩ | ⟨_, _, e⟩
  · rw [e]
    exact exec_form i s
  · exact ⟨s, _, _, e, .refl s⟩

/-- The running word, its operands and every buffer byte are in t what they are in s (spec 20 R91, spec 60 R366). -/
structure OperandsStand (s t : State) : Prop where
  seq : t.seq = s.seq
  operands : t.operands = s.operands
  bytes : SameBytes s t

theorem hostRead_operandsStand (s : State) (off : Nat) : OperandsStand s (s.hostRead off) := by
  rcases s.hostRead_cases off with ⟨_, e⟩ | ⟨_, _, e⟩
  · rw [e]; exact ⟨rfl, rfl, fun _ => rfl⟩
  · rw [e]; exact ⟨rfl, rfl, fun _ => rfl⟩

theorem powerOnReset_busy (s : State) : s.powerOnReset.busy = false := rfl

/-- A soft reset abandons a running command (spec 70 R384). -/
theorem softReset_busy (s : State) : s.softReset.busy = false := by
  rcases s.softReset_cases with ⟨_, e⟩ | ⟨_, e⟩
  · rw [e]; rfl
  · rw [e]; rfl

/-- A busy write that is no soft reset leaves the operands alone (spec 20 R91, R92). -/
theorem writeRegBusy_operandsStand {s : State} {r : Reg} {w : Word} (h : (s.writeRegBusy r w).busy = true) :
    OperandsStand s (s.writeRegBusy r w) := by
  cases r with
  | ctrl =>
    rw [State.writeRegBusy] at h ⊢
    cases hw : w.getLsbD 1
    · rw [s.writeCtrl_irqEn hw]; exact ⟨rfl, rfl, fun _ => rfl⟩
    · rw [s.writeCtrl_softReset hw, softReset_busy] at h; cases h
  | _ => exact ⟨rfl, rfl, fun _ => rfl⟩

/-- Settles O31: of the cases of a step (`step_cases`) the engine's turn and the power-on reset end the command, and a
host access that does not end it leaves its operands alone. -/
theorem operandsFixedWhileBusy : Obligations.OperandsFixedWhileBusy := by
  intro s t ht hs hbusy
  suffices OperandsStand s t from ⟨this.seq, this.operands, this.bytes⟩
  cases step_cases ht with
  | rest es idle _ => exact absurd (s.busy_false_iff.2 idle) (by simp [hs])
  | engine es w _ run =>
    obtain ⟨u, c, d, e, _⟩ := runWord_form w (s.withPending es)
    obtain rfl := Host.Outcome.next.inj (e.symm.trans run)
    rw [State.complete_busy] at hbusy
    cases hbusy
  | read es off eq =>
    obtain ⟨hseq, hops, hbytes⟩ := hostRead_operandsStand (s.withPending es) off
    exact eq ▸ ⟨hseq, hops, hbytes⟩
  | write es off w _ _ eq =>
    rw [State.hostWrite_busy (by exact hs)] at eq
    rw [eq, State.answer_busy] at hbusy
    obtain ⟨hseq, hops, hbytes⟩ := writeRegBusy_operandsStand hbusy
    exact eq ▸ ⟨hseq, hops, hbytes⟩
  | busError es eq => exact eq ▸ ⟨rfl, rfl, fun _ => rfl⟩
  | powerOn es eq =>
    rw [eq, powerOnReset_busy] at hbusy
    cases hbusy

/-! The busy hazard -/

/-- The engine's turn while a command runs ends it and keeps LEN and WIGN (spec 00 R16, spec 60 R353). -/
theorem engineTurn_completes {s : State} {w : Word} (h : s.seq = .busy w) :
    ∃ t, engineTurn s = .next t ∧ t.busy = false ∧ t.len = s.len ∧ t.wign = s.wign := by
  obtain ⟨u, c, d, e, hk⟩ := runWord_form w s
  exact ⟨u.complete c d, by rw [engineTurn, h]; exact e, rfl, hk.len, hk.wign⟩

/-- An idle write at the offset of a register below the nonce (spec 10 R32). -/
theorem State.hostWrite_idle_offset {s : State} (hb : s.busy = false) {r : Reg} (hr : r.offset < 0x040) (w : Word) :
    s.hostWrite r.offset w = (s.writeReg r w).answer .written := by
  rw [State.hostWrite_idle hb, regAt_of_offset_lt _ hr]

/-- A busy write at the offset of a register below the nonce (spec 10 R32, spec 20 R92). -/
theorem State.hostWrite_busy_offset {s : State} (hb : s.busy = true) {r : Reg} (hr : r.offset < 0x040) (w : Word) :
    s.hostWrite r.offset w = (s.writeRegBusy r w).answer .written := by
  rw [State.hostWrite_busy hb, regAt_of_offset_lt _ hr]

/-- Settles O32: the accepted command is running when the early LEN write comes, and the completion keeps LEN and WIGN
and leaves the sequencer idle for the late one. -/
theorem lenWriteBeforeCompletionIsDropped : Obligations.LenWriteBeforeCompletionIsDropped := by
  intro s w v hs
  have haccept : s.hostWrite 0x010 w = (s.accept w).answer .written :=
    State.hostWrite_idle_offset (r := .cmd) (s.busy_false_iff.2 hs) (by decide) w
  rw [haccept]
  generalize hrun : (s.accept w).answer .written = running
  obtain ⟨hseq, hlen, hwign⟩ : running.seq = .busy w ∧ running.len = s.len ∧ running.wign = s.wign := by
    subst hrun
    exact ⟨rfl, rfl, rfl⟩
  constructor
  · have hdrop : running.hostWrite 0x020 v = ({ running with wign := true } : State).answer .written :=
      State.hostWrite_busy_offset (r := .len) (running.busy_iff.2 ⟨w, hseq⟩) (by decide) v
    rw [hdrop]
    obtain ⟨t, ht, _, htlen, htwign⟩ :=
      engineTurn_completes (s := ({ running with wign := true } : State).answer .written) hseq
    exact ⟨t, ht, htlen.trans hlen, htwign⟩
  · obtain ⟨t, ht, hidle, _, htwign⟩ := engineTurn_completes hseq
    have htake : t.hostWrite 0x020 v = ({ t with len := v.extractLsb' 0 16 } : State).answer .written :=
      State.hostWrite_idle_offset (r := .len) hidle (by decide) v
    refine ⟨t, ht, ?_⟩
    rw [htake]
    exact ⟨rfl, htwign.trans hwign⟩

end Sys2Proof.Machine
end

section
/-! PROOFS of the encoding family (spec 30), part 1: a command word is its four fields put together (R111), the words of
the opcode map by mask and match (R114, R115), and the illegal words (R116, spec 47 R342). -/

namespace Sys2Proof.Machine

open Sys2Proof

/-! A word and its fields -/

/-- A command word is its fields, most significant first (spec 30 R111). -/
theorem append_fields (w : Word) :
    rsvField w ++ BitVec.ofBool (dkField w) ++ BitVec.ofBool (ksField w) ++ opField w = w := by
  apply BitVec.eq_of_getLsbD_eq
  intro i hi
  simp only [BitVec.getLsbD_append, rsvField, dkField, ksField, opField, ofBool_getLsbD, BitVec.getLsbD_extractLsb']
  by_cases hop : i < 8
  · simp [hop]
  by_cases hks : i = 8
  · simp [hks]
  by_cases hdk : i = 9
  · simp [hdk]
  · simp [hop, show ¬(i - 8 < 1) by omega, show ¬(i - 8 - 1 < 1) by omega, show i - 8 - 1 - 1 < 22 by omega,
      show 10 + (i - 8 - 1 - 1) = i by omega]

/-- The fields of a command's word are those of its row of the opcode map (spec 30 R114). -/
theorem encode_fields (i : Instr) : Laws.EncodingFields.Statement i := by
  cases i with
  | nop => exact Laws.EncodingFields.nop
  | ccmNew ks dk => exact Laws.EncodingFields.ccmNew ks dk
  | ccmSeal => exact Laws.EncodingFields.ccmSeal
  | ccmOpen => exact Laws.EncodingFields.ccmOpen
  | ccmTag => exact Laws.EncodingFields.ccmTag
  | ctrXor => exact Laws.EncodingFields.ctrXor
  | nonceBuild => exact Laws.EncodingFields.nonceBuild
  | x25519Base ks => exact Laws.EncodingFields.x25519Base ks
  | x25519 => exact Laws.EncodingFields.x25519
  | deriveKey => exact Laws.EncodingFields.deriveKey
  | sha256 => exact Laws.EncodingFields.sha256
  | dispatch => exact Laws.EncodingFields.dispatch
  | zeroize => exact Laws.EncodingFields.zeroize

/-- The opcode map takes the fields of a well-formed command back to it (spec 30 R113, R114). -/
theorem decodeFields_of_wf {i : Instr} (h : i.wf = true) : decodeFields i.opcode i.ksBit i.dkBit = .ok i := by
  cases i with
  | ccmNew ks dk =>
    cases ks with
    | slot0 => rfl
    | slot1 =>
      cases dk with
      | false => rfl
      | true => cases h
  | x25519Base ks => cases ks <;> rfl
  | _ => rfl

theorem decode_encode {i : Instr} (h : i.wf = true) : decode (encode i) = .ok i := by
  obtain ⟨hrsv, hop, hks, hdk⟩ := encode_fields i
  rw [decode, if_neg (not_not.2 hrsv), hop, hks, hdk, decodeFields_of_wf h]

theorem encode_of_decode {w : Word} {i : Instr} (h : decode w = .ok i) : encode i = w := by
  obtain ⟨hop, hks, hdk, _⟩ := decodeFields_ok (decode_ok_fields h)
  calc encode i
      = rsvField w ++ BitVec.ofBool (dkField w) ++ BitVec.ofBool (ksField w) ++ opField w := by
        rw [decode_ok_rsv h, hop, hks, hdk]; rfl
    _ = w := append_fields w

/-- Settles O1: the decoder inverts the encoder on the well-formed commands (`decode_encode`), and a word is its fields,
so the command it decodes to encodes to it (`encode_of_decode`). -/
theorem decodeEncodeAgree : Obligations.DecodeEncodeAgree := by
  refine fun w i => ⟨fun h => ⟨?_, encode_of_decode h⟩, fun ⟨hwf, he⟩ => he ▸ decode_encode hwf⟩
  obtain ⟨_, _, _, hwf⟩ := decodeFields_ok (decode_ok_fields h)
  exact hwf

/-- Settles O4: each word is its command's encoding (`decodeEncodeAgree`). -/
theorem writtenWordsDecode : Obligations.WrittenWordsDecode := by
  have of_encoding {i : Instr} {w : Word} (hwf : i.wf = true) (he : encode i = w) : decode w = .ok i :=
    (decodeEncodeAgree w i).2 ⟨hwf, he⟩
  exact ⟨of_encoding rfl rfl, of_encoding rfl rfl, of_encoding rfl rfl, of_encoding rfl rfl, of_encoding rfl rfl,
    of_encoding rfl rfl, of_encoding rfl rfl⟩

/-! Mask and match -/

/-- A well-formed command is decoded from its own word only (spec 30 R114). -/
theorem decode_eq_ok_iff {i : Instr} (h : i.wf = true) (w : Word) : decode w = .ok i ↔ w = encode i := by
  rw [decodeEncodeAgree w i, eq_comm (a := w)]
  exact and_iff_right h

/-- The KS and DK bits of a word, as a decoder's mask leaves them. -/
theorem and_ksMask (w : Word) : w &&& 0x100#32 = if ksField w then 0x100#32 else 0#32 := BitVec.and_twoPow w 8

theorem and_dkMask (w : Word) : w &&& 0x200#32 = if dkField w then 0x200#32 else 0#32 := BitVec.and_twoPow w 9

/-- A word is its part under a mask and its part under the complement. -/
theorem and_or_and_not (w m : Word) : (w &&& ~~~m) ||| (w &&& m) = w := by
  apply BitVec.eq_of_getLsbD_eq
  intro i hi
  simp [hi, ← Bool.and_or_distrib_left]

/-- The word of X25519_BASE with its KS bit (spec 30 R112, R114). -/
theorem encode_x25519Base (ks : Bool) :
    encode (.x25519Base (slotOf ks)) = 0x10#32 ||| (if ks then 0x100#32 else 0#32) := by
  cases ks <;> rfl

/-- The word of CCM_NEW with its KS and DK bits (spec 30 R112 to R114). -/
theorem encode_ccmNew (ks dk : Bool) : encode (.ccmNew (slotOf ks) dk) =
    0x01#32 ||| ((if ks then 0x100#32 else 0#32) ||| (if dk then 0x200#32 else 0#32)) := by
  cases ks <;> cases dk <;> rfl

theorem ccmNew_wf_iff (ks dk : Bool) : (Instr.ccmNew (slotOf ks) dk).wf = true ↔ ¬(ks = true ∧ dk = true) := by
  cases ks <;> cases dk <;> decide

/-- X25519_BASE by mask and match: KS alone is free (spec 30 R115). -/
theorem decode_x25519Base_iff (w : Word) :
    (∃ ks, decode w = .ok (.x25519Base ks)) ↔ w &&& 0xFFFFFEFF#32 = 0x00000010#32 := by
  constructor
  · rintro ⟨ks, h⟩
    rw [← encode_of_decode h]
    cases ks <;> rfl
  · intro h
    refine ⟨slotOf (ksField w), (decode_eq_ok_iff rfl w).2 ?_⟩
    rw [encode_x25519Base, ← and_ksMask, ← h]
    exact (and_or_and_not w 0x100#32).symm

/-- CCM_NEW by mask and match: KS and DK are free, but for the one word that sets both (spec 30 R113, R115). -/
theorem decode_ccmNew_iff (w : Word) :
    (∃ ks dk, decode w = .ok (.ccmNew ks dk)) ↔ w &&& 0xFFFFFCFF#32 = 0x00000001#32 ∧ w ≠ 0x00000301#32 := by
  constructor
  · rintro ⟨ks, dk, h⟩
    obtain ⟨hwf, he⟩ := (decodeEncodeAgree w _).1 h
    rw [← he]
    cases ks with
    | slot0 => cases dk <;> decide
    | slot1 =>
      cases dk with
      | false => decide
      | true => cases hwf
  · rintro ⟨h, hne⟩
    have hw : encode (.ccmNew (slotOf (ksField w)) (dkField w)) = w := by
      rw [encode_ccmNew, ← and_ksMask, ← and_dkMask, ← BitVec.and_or_distrib_left, ← h]
      exact and_or_and_not w 0x300#32
    refine ⟨slotOf (ksField w), dkField w, (decodeEncodeAgree w _).2 ⟨(ccmNew_wf_iff _ _).2 ?_, hw⟩⟩
    rintro ⟨hks, hdk⟩
    rw [hks, hdk] at hw
    exact hne hw.symm

/-- The commands whose KS and DK columns are 0 (spec 30 R114) are well-formed, and their words are their opcodes. -/
theorem encode_of_fixedWord {i : Instr} (h : i ∈ [Instr.nop, .ccmSeal, .ccmOpen, .ccmTag, .ctrXor, .nonceBuild, .x25519,
    .deriveKey, .sha256, .dispatch, .zeroize]) : i.wf = true ∧ encode i = i.opcode.setWidth 32 := by
  cases i with
  | ccmNew ks dk | x25519Base ks => simp at h
  | _ => exact ⟨rfl, rfl⟩

/-- Settles O2: a command whose word has no free field is decoded from that word alone (`decode_eq_ok_iff`), and the two
with free fields have their own lemmas. -/
theorem legalWordsByMaskAndMatch : Obligations.LegalWordsByMaskAndMatch := by
  refine fun w => ⟨fun i hi => ?_, decode_x25519Base_iff w, decode_eq_ok_iff rfl w, decode_eq_ok_iff rfl w,
    decode_eq_ok_iff rfl w, ⟨.slotWithDerivedKey, rfl⟩, decode_ccmNew_iff w⟩
  obtain ⟨hwf, he⟩ := encode_of_fixedWord hi
  have hmask : w &&& 0xFFFFFFFF#32 = w := BitVec.and_allOnes
  rw [decode_eq_ok_iff hwf, he, hmask]

/-! Illegal words -/

/-- The OP values of the opcode map (spec 30 R114). -/
def listedOpcodes : List (BitVec 8) :=
  [0x00#8, 0x01#8, 0x02#8, 0x03#8, 0x04#8, 0x05#8, 0x08#8, 0x10#8, 0x11#8, 0x12#8, 0x18#8, 0x20#8, 0x3F#8]

theorem opcode_listed (i : Instr) : i.opcode ∈ listedOpcodes := by
  cases i <;> simp [Instr.opcode, listedOpcodes]

theorem decodePlain_error_iff (i : Instr) (ks dk : Bool) :
    (∃ e, decodePlain i ks dk = .error e) ↔ ks = true ∨ dk = true := by
  cases ks <;> cases dk <;> simp [decodePlain]

theorem decodeCcmNew_error_iff (ks dk : Bool) : (∃ e, decodeCcmNew ks dk = .error e) ↔ dk = true ∧ ks = true := by
  cases ks <;> cases dk <;> simp [decodeCcmNew]

theorem decodeX25519Base_error_iff (ks dk : Bool) : (∃ e, decodeX25519Base ks dk = .error e) ↔ dk = true := by
  cases dk <;> simp [decodeX25519Base]

/-- A listed opcode but CCM_NEW's and X25519_BASE's takes neither field (spec 30 R114). -/
theorem decodeFields_plain {op : BitVec 8} (h : op ∈ listedOpcodes) (hccm : op ≠ 0x01#8) (hbase : op ≠ 0x10#8) :
    ∃ i, ∀ ks dk, decodeFields op ks dk = decodePlain i ks dk := by
  simp only [listedOpcodes, List.mem_cons, List.not_mem_nil, or_false, hccm, hbase, false_or] at h
  rcases h with rfl | rfl | rfl | rfl | rfl | rfl | rfl | rfl | rfl | rfl | rfl <;> exact ⟨_, fun _ _ => rfl⟩

/-- The OP, KS and DK fields that the opcode map refuses (spec 30 R116). -/
theorem decodeFields_error_iff (op : BitVec 8) (ks dk : Bool) :
    (∃ e, decodeFields op ks dk = .error e) ↔
      op ∉ listedOpcodes ∨ (ks = true ∧ op ≠ 0x01#8 ∧ op ≠ 0x10#8) ∨ (dk = true ∧ op ≠ 0x01#8) ∨
        (op = 0x01#8 ∧ dk = true ∧ ks = true) := by
  by_cases hop : op ∈ listedOpcodes
  · by_cases hccm : op = 0x01#8
    · subst hccm
      exact (decodeCcmNew_error_iff ks dk).trans (by simp [listedOpcodes])
    by_cases hbase : op = 0x10#8
    · subst hbase
      exact (decodeX25519Base_error_iff ks dk).trans (by simp [listedOpcodes])
    · obtain ⟨i, hi⟩ := decodeFields_plain hop hccm hbase
      rw [hi, decodePlain_error_iff]
      simp [hop, hccm, hbase]
  · refine iff_of_true ?_ (.inl hop)
    cases h : decodeFields op ks dk with
    | error e => exact ⟨e, rfl⟩
    | ok i =>
      obtain ⟨rfl, _⟩ := decodeFields_ok h
      exact absurd (opcode_listed i) hop

/-- The decoder refuses exactly the illegal words (spec 30 R116). -/
theorem decode_error_iff (w : Word) : (∃ e, decode w = .error e) ↔ IllegalWord w := by
  by_cases hrsv : rsvField w = 0
  · rw [decode, if_neg (not_not.2 hrsv), decodeFields_error_iff]
    simp [IllegalWord, hrsv, listedOpcodes]
  · rw [decode, if_pos hrsv]
    exact iff_of_true ⟨_, rfl⟩ (.inr (.inl hrsv))

theorem engineTurn_busy {s : State} {w : Word} (h : s.seq = .busy w) : engineTurn s = runWord w s := by
  rw [engineTurn, h]

/-- The engine completes an illegal word with ILLEGAL_COMMAND alone (spec 47 R342). -/
theorem engineTurn_illegal {s : State} {w : Word} (hs : s.seq = .busy w) (h : IllegalWord w) :
    engineTurn s = .next (s.ended w .illegalCommand .illegalCommand) := by
  obtain ⟨e, he⟩ := (decode_error_iff w).2 h
  rw [engineTurn_busy hs, runWord, he]
  exact congrArg Host.Outcome.next (State.complete_eq_ended hs rfl _ _)

/-- An opcode whose number is not listed is illegal (spec 30 R114, R116). -/
theorem illegalWord_of_opcode {w : Word} {n : Nat} (hn : n < 256) (hop : opField w = BitVec.ofNat 8 n)
    (h : n ∉ listedOpcodes.map BitVec.toNat) : IllegalWord w := by
  refine .inl fun hmem => h ?_
  have hnum : (BitVec.ofNat 8 n).toNat = n := Nat.mod_eq_of_lt hn
  rw [← hnum, ← hop]
  exact List.mem_map_of_mem hmem

/-- Settles O3: the decoder refuses exactly the illegal words (`decode_error_iff`), and an accepted one ends at the
engine's turn (`engineTurn_illegal`). -/
theorem illegalWordCompletesAlone : Obligations.IllegalWordCompletesAlone := by
  refine fun w => ⟨decode_error_iff w, fun s hs h => ?_, fun n hn hop hrange => illegalWord_of_opcode hn hop ?_⟩
  · rw [State.writeReg, engineTurn_illegal (s.accept_seq w) h]
    simp [State.ended, State.accept, hs]
  · have hlisted : listedOpcodes.map BitVec.toNat = [0, 1, 2, 3, 4, 5, 8, 16, 17, 18, 24, 32, 63] := rfl
    rw [hlisted]
    simp only [List.mem_cons, List.not_mem_nil, or_false]
    omega

end Sys2Proof.Machine
end

section
/-! PROOFS of the encoding family (spec 30), part 2: the engine's turn as a step (spec 70 R395), the wait loop of R118,
and the driver's `ldbuf` of R119. -/

namespace Sys2Proof.Machine

open Sys2Proof

/-! A step by what is pending, and runs of steps -/

theorem step_nil {s : State} (h : s.host.pending = []) : step s = engineTurn s := by rw [step, h]

theorem step_cons {s : State} {e : HostEvent} {rest : List HostEvent} (h : s.host.pending = e :: rest) :
    step s = takeEvent e rest s := by
  rw [step, h]

theorem run_succ {s s' : State} (h : step s = .next s') (k : Nat) : core.run (k + 1) s = core.run k s' := by
  have hstep : core.step s = .next s' := h
  simp only [Host.Core.run, hstep]

/-! The engine's turn -/

/-- When the engine has the next turn of a running command, in any of the three forms, the step runs the command's word
(spec 70 R395). -/
theorem step_engineNext {s : State} {es : List HostEvent} {w : Word} (hnext : s.engineNext es) (hs : s.seq = .busy w) :
    step s = runWord w (s.withPending es) := by
  have same : s.withPending s.host.pending = s := rfl
  rcases hnext with ⟨hp, rfl⟩ | hp | ⟨rest, hp, rfl⟩
  · rw [step_nil hp, ← hp, same, engineTurn_busy hs]
  · rw [step_cons hp]
    exact engineTurn_busy (s := s.withPending es) hs
  · rw [step_cons hp, ← hp, same]
    simp only [takeEvent, waitTurn, if_pos (s.busy_iff.2 ⟨w, hs⟩), engineTurn_busy hs]

/-- Settles O5: the engine's turn is `runWord` (`step_engineNext`), which is `exec` on a word that decodes. -/
theorem stepRunsDecodedCommand : Obligations.StepRunsDecodedCommand := by
  intro s es w i hnext hs hdecode
  rw [step_engineNext hnext hs, runWord, hdecode]

/-! The wait loop -/

/-- BUSY and DONE as a read of STATUS shows them (spec 10 R38, R39). -/
theorem statusWord_busyBit (s : State) : s.statusWord.getLsbD 0 = s.busy :=
  BitVec.getLsbD_append.trans (by simp)

theorem statusWord_doneBit (s : State) : s.statusWord.getLsbD 1 = s.done :=
  BitVec.getLsbD_append.trans (BitVec.getLsbD_append.trans (by simp))

theorem hostRead_status (s : State) : s.hostRead statusOffset = s.answer (.data s.statusWord) := by
  have hreg : regAt s.params statusOffset = .status := regAt_of_offset_lt s.params (r := .status) (by decide)
  rw [State.hostRead_of_readableBusy s statusOffset (by rw [hreg]; rfl), hreg]
  rfl

/-- A poll that sees BUSY = 1 answers and leaves one poll fewer (spec 30 R118). -/
theorem step_wait_succ {s : State} {k : Nat} {rest : List HostEvent} (hb : s.busy = true)
    (hp : s.host.pending = .wait (k + 1) :: rest) :
    step s = .next ((s.withPending (.wait k :: rest)).answer (.data s.statusWord)) := by
  rw [step_cons hp]
  simp only [takeEvent, waitTurn, if_pos hb, hostRead_status]
  rfl

/-- The poll that sees BUSY = 0 ends the loop (spec 30 R118). -/
theorem step_wait_idle {s : State} {k : Nat} {rest : List HostEvent} (hb : s.busy = false)
    (hp : s.host.pending = .wait k :: rest) :
    step s = .next ((s.withPending rest).answer (.data s.statusWord)) := by
  rw [step_cons hp]
  simp only [takeEvent, waitTurn, hb, Bool.false_eq_true, if_false, hostRead_status]
  rfl

/-- Settles O6, by induction on the polls before the completion: the last of them is the engine's turn, which ends the
command (`runWord_form`), and the next one sees BUSY = 0. -/
theorem waitLoopEnds : Obligations.WaitLoopEnds := by
  intro k
  induction k with
  | zero =>
    intro s w rest hs hp
    obtain ⟨u, c, d, hrun, hkept⟩ := runWord_form w s
    have hstep : step s = .next (u.complete c d) := by
      rw [step_engineNext (.inr (.inr ⟨rest, hp, rfl⟩)) hs, ← hp]
      exact hrun
    have hpend : (u.complete c d).host.pending = .wait 0 :: rest := by
      rw [State.complete_host, hkept.host, hp]
    exact ⟨_, (run_succ hstep 1).trans (run_succ (step_wait_idle rfl hpend) 0), rfl, rfl, rfl, _, rfl,
      statusWord_busyBit _, statusWord_doneBit _⟩
  | succ k ih =>
    intro s w rest hs hp
    rw [run_succ (step_wait_succ (s.busy_iff.2 ⟨w, hs⟩) hp)]
    exact ih _ w rest hs rfl

/-! The driver's writes -/

/-- An address of the window by its offset: GQE_BASE is a multiple of the window's size (spec 20 R80). -/
theorem Access.offset_eq {p : Params} {a : Access} {off : Nat} (hp : p.Legal)
    (ha : a.addr = p.gqeBase + off) (h : off < 4096) : a.offset p = some off := by
  obtain ⟨_, _, _, _, _, hbase⟩ := hp
  rw [Access.offset, ha, if_pos (by omega)]
  exact congrArg some (by omega)

/-- A `wr` of a named register, from an idle machine, is the register's write (spec 30 R118, spec 20 R80, R81). -/
theorem step_wr {s : State} {r : Reg} {v : Word} {rest : List HostEvent} (hp : s.params.Legal) (hs : s.seq = .idle)
    (hr : r.named s.params) (hpend : s.host.pending = wr s.params (.named r) v :: rest) :
    step s = .next (((s.withPending rest).writeReg r v).answer .written) := by
  obtain ⟨halign, hwindow⟩ := Reg.offset_named hp hr
  rw [step_cons hpend, ← State.hostWrite_named (s := s.withPending rest) hp (s.busy_false_iff.2 hs) hr]
  refine hostAccess_write (s := s.withPending rest)
    (a := { addr := s.params.gqeBase + r.offset, width := .bits32, kind := .write 0xF v })
    (Access.offset_eq hp rfl hwindow) ((Access.wellShaped_iff _ _).2 ⟨rfl, halign, ?_⟩) rfl
  rintro m d ⟨⟩
  rfl

/-! A byte string written word by word -/

/-- A byte string with zero bytes up to the length n. -/
def padTo (n : Nat) (b : List Byte) : List Byte := b ++ zeros (n - b.length)

theorem padTo_length {n : Nat} {b : List Byte} (h : b.length ≤ n) : (padTo n b).length = n := by
  rw [padTo, List.length_append, zeros_length]
  omega

theorem zeros_add (n m : Nat) : zeros (n + m) = zeros n ++ zeros m := List.replicate_add n m 0

/-- Registers packed from a short byte string hold zeros behind it (spec 20 R84). -/
theorem unpack_pack_short {n : Nat} {b : List Byte} (h : b.length ≤ n) : unpack n (pack (8 * n) b) = padTo n b := by
  have hpack : pack (8 * n) b = pack (8 * n) (padTo n b) := by
    rw [pack, pack, padTo, fromLE_append, fromLE_zeros, Nat.mul_zero, Nat.add_zero]
  have hlen := padTo_length h
  have hunpack := unpack_pack (8 * n) (padTo n b) (by omega)
  rwa [hlen, ← hpack] at hunpack

/-- The first word of a padded byte string, and the words after it (spec 30 R119). -/
theorem padTo_words (n : Nat) (b : List Byte) :
    padTo (4 * (n + 1)) b = padTo 4 (b.take 4) ++ padTo (4 * n) (b.drop 4) := by
  rcases Nat.le_total 4 b.length with h | h
  · have hword : 4 - (b.take 4).length = 0 := by rw [List.length_take]; omega
    have hrest : 4 * (n + 1) - b.length = 4 * n - (b.drop 4).length := by rw [List.length_drop]; omega
    rw [padTo, padTo, padTo, hword, hrest, ← List.append_assoc]
    simp [zeros]
  · rw [List.take_of_length_le h, List.drop_of_length_le h, padTo, padTo, padTo, List.append_assoc, List.nil_append,
      ← zeros_add]
    congr 2
    rw [List.length_nil]
    omega

/-- Two writes end to end are one write of both strings. -/
theorem writeMem_append (s : State) (base : Nat) (x y : List Byte) :
    SameBytes (s.writeMem base (x ++ y)) ((s.writeMem base x).writeMem (base + x.length) y) := by
  intro a
  simp only [State.writeMem_byteAt, List.length_append]
  by_cases hx : base ≤ a ∧ a < base + x.length
  · rw [if_neg (by omega), if_pos hx, if_pos (by omega), List.getD_append _ _ _ _ (by omega)]
  · by_cases hy : base + x.length ≤ a ∧ a < base + x.length + y.length
    · rw [if_pos hy, if_pos (by omega), List.getD_append_right _ _ _ _ (by omega)]
      congr 1
      omega
    · rw [if_neg hy, if_neg hx, if_neg (by omega)]

/-- A write of the same bytes, to states of the same bytes. -/
theorem writeMem_sameBytes {s t : State} (h : SameBytes s t) (base : Nat) (b : List Byte) :
    SameBytes (s.writeMem base b) (t.writeMem base b) := by
  intro a
  rw [State.writeMem_byteAt, State.writeMem_byteAt, h a]

/-- What the driver's writes of a byte string to the n words of DBUF from word j on leave: an idle machine with the
events after them pending, and the padded bytes in place (spec 30 R119). -/
structure LoadedWords (s t : State) (rest : List HostEvent) (j n : Nat) (b : List Byte) : Prop where
  seq : t.seq = .idle
  params : t.params = s.params
  pending : t.host.pending = rest
  bytes : SameBytes (s.writeMem (dbufBase + 4 * j) (padTo (4 * n) b)) t

/-- One word of the driver's writes (spec 30 R119, spec 20 R85). -/
theorem step_wrDbuf {s : State} {rest : List HostEvent} {j : Nat} {b : List Byte} (hp : s.params.Legal)
    (hs : s.seq = .idle) (hfit : 4 * j < s.params.dbufBytes) (hb : b.length ≤ 4)
    (hpend : s.host.pending = wr s.params (.named (.dbuf (4 * j))) (pack 32 b) :: rest) :
    ∃ u, step s = .next u ∧ LoadedWords s u rest j 1 b := by
  have hword : leBytes 4 (pack 32 b).toNat = padTo 4 b := unpack_pack_short (n := 4) hb
  refine ⟨_, step_wr hp hs (r := .dbuf (4 * j)) ⟨by omega, hfit⟩ hpend, hs, rfl, rfl, ?_⟩
  rw [State.writeReg, hword]
  exact fun _ => rfl

/-- The first word and the words after it are the words of the whole string. -/
theorem LoadedWords.cons {s u t : State} {mid rest : List HostEvent} {j n : Nat} {b : List Byte}
    (h : LoadedWords s u mid j 1 (b.take 4)) (k : LoadedWords u t rest (j + 1) n (b.drop 4)) :
    LoadedWords s t rest j (n + 1) b where
  seq := k.seq
  params := k.params.trans h.params
  pending := k.pending
  bytes a := by
    have hlen : (padTo 4 (b.take 4)).length = 4 := padTo_length (List.length_take_le 4 b)
    have happend := writeMem_append s (dbufBase + 4 * j) (padTo 4 (b.take 4)) (padTo (4 * n) (b.drop 4)) a
    rw [hlen, ← padTo_words] at happend
    rw [k.bytes a, ← happend]
    exact writeMem_sameBytes h.bytes (dbufBase + 4 * (j + 1)) (padTo (4 * n) (b.drop 4)) a

/-- The driver's writes of n words to DBUF, by induction on n, in a run that goes on for m steps (spec 30 R119). -/
theorem run_drvWords (m : Nat) {n j : Nat} {b : List Byte} {s : State} {rest : List HostEvent}
    (hp : s.params.Legal) (hs : s.seq = .idle) (hfit : 4 * (j + n) ≤ s.params.dbufBytes) (hb : b.length ≤ 4 * n)
    (hpend : s.host.pending = drvWords s.params (fun k => .dbuf (4 * k)) n j b ++ rest) :
    ∃ t, core.run (n + m) s = core.run m t ∧ LoadedWords s t rest j n b := by
  induction n generalizing j b s with
  | zero =>
    refine ⟨s, by rw [Nat.zero_add], hs, rfl, hpend, fun a => ?_⟩
    obtain rfl : b = [] := List.length_eq_zero_iff.1 (by omega)
    rw [State.writeMem_byteAt, padTo_length (by simp), if_neg (by omega)]
  | succ n ih =>
    obtain ⟨u, hstep, hword⟩ := step_wrDbuf hp hs (by omega) (List.length_take_le 4 b) hpend
    obtain ⟨t, hrun, hrest⟩ := ih (s := u) (j := j + 1) (b := b.drop 4) (hword.params ▸ hp) hword.seq
      (by rw [hword.params]; omega) (by rw [List.length_drop]; omega) (by rw [hword.params]; exact hword.pending)
    exact ⟨t, by rw [Nat.succ_add, run_succ hstep, hrun], hword.cons hrest⟩

theorem drvWords_length (p : Params) (f : Nat → Reg) (n j : Nat) (b : List Byte) : (drvWords p f n j b).length = n := by
  induction n generalizing j b with
  | zero => rfl
  | succ n ih => rw [drvWords, List.length_cons, ih]

/-- The words of a byte string that fits in DBUF lie in DBUF: its size is a multiple of 4 (spec 00 R7). -/
theorem words_fit {p : Params} {n : Nat} (hp : p.Legal) (h : n ≤ p.dbufBytes) : 4 * ((n + 3) / 4) ≤ p.dbufBytes := by
  obtain ⟨_, _, hd16, _⟩ := hp
  omega

theorem bytesAt_sameBytes {s t : State} (h : SameBytes s t) (base n : Nat) : t.bytesAt base n = s.bytesAt base n :=
  List.map_congr_left fun i _ => h (base + i)

/-- Reading the written string back without its padding. -/
theorem LoadedWords.bytesAt {s t : State} {rest : List HostEvent} {j n : Nat} {b : List Byte}
    (h : LoadedWords s t rest j n b) (hb : b.length ≤ 4 * n) : t.bytesAt (dbufBase + 4 * j) b.length = b := by
  apply List.ext_getElem (by simp)
  intro i _ hi
  have hlen := padTo_length hb
  simp only [State.bytesAt, List.getElem_map, List.getElem_range]
  rw [h.bytes, State.writeMem_byteAt, hlen, if_pos (by omega), Nat.add_sub_cancel_left, padTo,
    List.getD_append _ _ _ _ hi, List.getD_eq_getElem]

theorem LoadedWords.sameBytesOutside {s t : State} {rest : List HostEvent} {j n : Nat} {b : List Byte}
    (h : LoadedWords s t rest j n b) (hb : b.length ≤ 4 * n) : SameBytesOutside (dbufBase + 4 * j) (4 * n) s t := by
  intro a ha
  rw [h.bytes, State.writeMem_byteAt, padTo_length hb, if_neg ha]

/-- The driver's last write, of LEN, changes no buffer byte (spec 30 R119, spec 10 R45). -/
theorem step_wrLen {t : State} {n : Nat} (hp : t.params.Legal) (ht : t.seq = .idle)
    (hpend : t.host.pending = [wr t.params (.named .len) (BitVec.ofNat 32 n)]) :
    ∃ u, step t = .next u ∧ u.host.pending = [] ∧ u.len = BitVec.ofNat 16 n ∧ SameBytes t u := by
  refine ⟨_, step_wr hp ht (r := .len) trivial hpend, rfl, ?_, fun _ => rfl⟩
  apply BitVec.eq_of_toNat_eq
  simp only [State.answer_len, State.writeReg, BitVec.extractLsb'_toNat, BitVec.toNat_ofNat, Nat.shiftRight_zero]
  omega

theorem drvLdbuf_length (p : Params) (b : List Byte) : (drvLdbuf p b).length = (b.length + 3) / 4 + 1 := by
  rw [drvLdbuf, List.length_append, drvWords_length, List.length_singleton]

/-- Settles O33: the words of the string are written one by one (`run_drvWords`), and the write of LEN that follows
changes no buffer byte (`step_wrLen`). -/
theorem ldbufLoadsItsBytes : Obligations.LdbufLoadsItsBytes := by
  intro s b hs hp hfit hpend
  have hcover : b.length ≤ 4 * ((b.length + 3) / 4) := by omega
  have hwords := words_fit hp hfit
  obtain ⟨t, hrun, hload⟩ := run_drvWords 1 hp hs (by omega) hcover hpend
  obtain ⟨u, hstep, hdone, hlen, hsame⟩ := step_wrLen (n := b.length) (hload.params ▸ hp) hload.seq
    (by rw [hload.params]; exact hload.pending)
  have hlength : u.len.toNat = b.length := by
    obtain ⟨_, hdmax, _⟩ := hp
    rw [hlen, BitVec.toNat_ofNat]
    omega
  refine ⟨u, ?_, hdone, hlength, ?_, fun a ha => ?_⟩
  · rw [drvLdbuf_length, hrun]
    exact run_succ hstep 0
  · rw [State.dataIn, hlength, State.dbuf, bytesAt_sameBytes hsame]
    exact hload.bytesAt hcover
  · rw [hsame a]
    exact hload.sameBytesOutside hcover a (by omega)

end Sys2Proof.Machine
end

section
/-! PROOFS of the block-cipher family (spec 40): the S-box as the affine image of the field inverse, and the
standard vectors (spec 95). -/

namespace Sys2Proof.Machine

open Sys2Proof

/-! The S-box (spec 40 R142, R143) -/

/-- a * b in GF(2^8): the sum of the multiples x^i * a over the bits i of b (spec 40 R142). -/
def gfMul (a b : Byte) : Byte :=
  (List.range 8).foldl (fun acc i => if b.getLsbD i then acc ^^^ Nat.repeat xtime i a else acc) 0

/-- Bit i of the affine image of b, with the constant 0x63 (spec 40 R143). -/
def affineBit (b : Byte) (i : Nat) : Bool :=
  b.getLsbD i ^^ b.getLsbD ((i + 4) % 8) ^^ b.getLsbD ((i + 5) % 8) ^^ b.getLsbD ((i + 6) % 8) ^^
    b.getLsbD ((i + 7) % 8) ^^ (0x63#8).getLsbD i

/-- The affine map undone, in rotations of the byte. -/
def unaffine (s : Byte) : Byte := s.rotateRight 2 ^^^ s.rotateRight 5 ^^^ s.rotateRight 7 ^^^ 0x05

/-- The affine map takes it back: over the 256 bytes and the 8 bits. -/
theorem affineBit_unaffine : ∀ s : Byte, ∀ i < 8, affineBit (unaffine s) i = s.getLsbD i := by decide +kernel

theorem unaffine_sbox_zero : unaffine (sbox 0) = 0 := by decide

/-- The table of spec 40 R143 at the 255 nonzero bytes: its entry, with the affine map undone, is the inverse. -/
theorem gfMul_unaffine_sbox : ∀ a : Byte, a ≠ 0 → gfMul a (unaffine (sbox a)) = 1 := by decide +kernel

/-- Settles O47: the inverse of a is its table entry with the affine map undone. -/
theorem sboxIsAffineInverse : Obligations.SboxIsAffineInverse := by
  intro a
  refine ⟨unaffine (sbox a), ?_, fun i hi => (affineBit_unaffine (sbox a) i hi).symm⟩
  split
  case isTrue h => rw [h, unaffine_sbox_zero]
  case isFalse h => exact gfMul_unaffine_sbox a h

/-! The standard vectors (spec 95 sections 2.1 to 2.3) -/

/-- The 128-bit vector of spec 95 section 2.1. -/
theorem aes_vector128 :
    aes (beBytes 16 0x000102030405060708090a0b0c0d0e0f) (beBytes 16 0x00112233445566778899aabbccddeeff) =
      beBytes 16 0x69c4e0d86a7b0430d8cdb78070b4c55a := by decide +kernel

/-- The digest of "abc" (spec 95 section 2.2). -/
theorem sha256_abc :
    sha256 [0x61, 0x62, 0x63] =
      beBytes 32 0xba7816bf8f01cfea414140de5dae2223b00361a396177a9cb410ff61f20015ad := by decide +kernel

/-- Alice's private key with Bob's public key (spec 95 section 2.3). -/
theorem x25519_alice_bob :
    x25519 (beBytes 32 0x77076d0a7318a57d3c16c17251b26645df4c2f87ebc0992ab177fba51db92c2a)
        (beBytes 32 0xde9edb7d7b7dc1b4d35b61c2ece435373f8343c85b78674dadfc7e146f882b4f) =
      beBytes 32 0x4a5d9d5ba4ce2de1728e3bf480350f25e07e21c947d19e3376f09b3c1e161742 := by decide +kernel

/-- Settles O60, by its three vectors. -/
theorem standardVectors : Obligations.StandardVectors :=
  ⟨aes_vector128, sha256_abc, x25519_alice_bob⟩

end Sys2Proof.Machine
end

section
/-! PROOFS of the CCM family (spec 41): the latch (R171, R172), the input checks (R185, R189), what CCM_SEAL, CCM_OPEN,
CCM_TAG and CTR_XOR do on operands that pass them (R182, R183, R186 to R189), the two round trips, and the pure
functions: the CTR transform byte by byte (R179 to R181) and the CBC-MAC chain (R175 to R178). -/

namespace Sys2Proof.Machine

open Sys2Proof

/-! CCM_NEW -/

theorem aesKeyLength_iff (n : Nat) : aesKeyLength n = true ↔ n = 16 ∨ n = 24 ∨ n = 32 := by
  simp [aesKeyLength, or_assoc]

theorem KeySlot.symOk_iff (k : KeySlot) :
    k.symOk = true ↔ k.type = .sym ∧ (k.klen.toNat = 16 ∨ k.klen.toNat = 24 ∨ k.klen.toNat = 32) := by
  simp [KeySlot.symOk, aesKeyLength_iff]

theorem validParams_iff (t n : Nat) : validParams t n = true ↔ 7 ≤ n ∧ n ≤ 13 ∧ t % 2 = 0 ∧ 4 ≤ t ∧ t ≤ 16 := by
  simp [validParams, and_assoc]

/-- CCM_NEW on a key source, in the words of spec 41 R172: which of the two ends it has. -/
theorem State.ccmNewFrom_ended {s : State} {w : Word} (hs : s.seq = .busy w) (ok : Bool) (k : List Byte) :
    (validParams s.tagSize.toNat s.nonceSize.toNat = true ∧ ok = true →
        s.ccmNewFrom ok k = (s.withLatch (s.newLatch k)).ended w .ok .ok) ∧
      (¬(validParams s.tagSize.toNat s.nonceSize.toNat = true ∧ ok = true) →
        s.ccmNewFrom ok k = (s.withLatch CcmLatch.reset).ended w .invalidParameters .invalidParameters) := by
  rcases s.ccmNewFrom_cases ok k with ⟨hv, hok, e⟩ | ⟨hno, e⟩
  · exact ⟨fun _ => e.trans (State.complete_eq_ended hs (by rfl) _ _), fun hno => absurd ⟨hv, hok⟩ hno⟩
  · exact ⟨fun hyes => absurd hyes hno, fun _ => e.trans (State.complete_eq_ended hs (by rfl) _ _)⟩

/-- The latch filled from a slot with a usable key: its key bytes with zeros behind them, and its KLEN. -/
theorem State.newLatch_keyBytes (s : State) {k : KeySlot} (h : k.symOk = true) :
    s.newLatch k.keyBytes =
      { ready := true, ckey := pack 256 (k.bytes.take k.klen.toNat ++ zeros (32 - k.klen.toNat)),
        cklen := k.klen, m := s.tagSize, ns := s.nonceSize } := by
  have hlen : k.keyBytes.length = k.klen.toNat :=
    KeySlot.keyBytes_length ((aesKeyLength_iff _).2 (k.symOk_iff.1 h).2)
  simp only [State.newLatch, hlen, BitVec.ofNat_toNat, BitVec.setWidth_eq]
  rfl

/-- The latch filled from DKEY: DKEY itself, with 32 bytes. -/
theorem State.newLatch_dkeyBytes (s : State) :
    s.newLatch s.dkeyBytes = { ready := true, ckey := s.dkey, cklen := 32, m := s.tagSize, ns := s.nonceSize } := by
  have hlen : s.dkeyBytes.length = 32 := unpack_length 32 s.dkey
  have hkey : pack 256 (s.dkeyBytes ++ zeros 0) = s.dkey :=
    (congrArg (pack 256) (List.append_nil _)).trans (pack_unpack 32 s.dkey rfl)
  simp only [State.newLatch, hlen, Nat.sub_self, hkey]
  rfl

/-- Settles O37: a slot with a usable key (`KeySlot.symOk_iff`) or a valid DKEY is a key source of
`State.ccmNewFrom`. -/
theorem ccmNewFillsOrClearsLatch : Obligations.CcmNewFillsOrClearsLatch := by
  intro s w hs
  simp only [← validParams_iff, ← KeySlot.symOk_iff]
  refine ⟨fun ks => ?_, ?_⟩
  · obtain ⟨fills, clears⟩ := s.ccmNewFrom_ended hs (s.slot ks).symOk (s.slot ks).keyBytes
    refine ⟨fun h => congrArg _ ((fills h).trans ?_), fun h => congrArg _ (clears h)⟩
    rw [s.newLatch_keyBytes h.2]
    rfl
  · obtain ⟨fills, clears⟩ := s.ccmNewFrom_ended hs s.dkeyValid s.dkeyBytes
    refine ⟨fun h => congrArg _ ((fills h).trans ?_), fun h => congrArg _ (clears h)⟩
    rw [s.newLatch_dkeyBytes]
    rfl

/-! The input checks -/

theorem State.ccmInputCheck_notReady {s : State} (h : s.latch.ready = false) :
    s.ccmInputCheck = some .invalidParameters := by
  simp [State.ccmInputCheck, h]

theorem State.ccmInputCheck_tooLong {s : State} (hr : s.latch.ready = true)
    (h : s.len.toNat > s.params.dbufBytes ∨ s.alen.toNat > s.params.abufBytes) :
    s.ccmInputCheck = some .invalidInput := by
  simp [State.ccmInputCheck, hr, State.lenTooBig, State.alenTooBig, h]

theorem State.ccmInputCheck_empty {s : State} (hr : s.latch.ready = true) (h : s.len = 0) :
    s.ccmInputCheck = some .invalidInput := by
  simp [State.ccmInputCheck, hr, h]

theorem State.ctrInputCheck_notReady {s : State} (h : s.latch.ready = false) :
    s.ctrInputCheck = some .invalidParameters := by
  simp [State.ctrInputCheck, h]

theorem State.ctrInputCheck_tooLong {s : State} (hr : s.latch.ready = true)
    (h : s.len.toNat > s.params.dbufBytes) : s.ctrInputCheck = some .invalidInput := by
  simp [State.ctrInputCheck, hr, State.lenTooBig, h]

/-! Each meaning by what its check answers -/

section meanings

variable {s : State} {w : Word} {c : ResultCode}

/-- A command's answer that completes a state still busy with w, in the words of spec 60 R353. -/
theorem next_ended {u : State} {d : ResultCode} {o : Host.Outcome State Fault Refusal}
    (h : o = .next (u.complete c d)) (hs : s.seq = .busy w) (hu : u.seq = s.seq) : o = .next (u.ended w c d) :=
  h.trans (congrArg Host.Outcome.next (State.complete_eq_ended hs hu c d))

theorem exec_ccmSeal_stop (hs : s.seq = .busy w) (hc : s.ccmInputCheck = some c) :
    exec .ccmSeal s = .next (({ s with olen := 0 } : State).ended w c c) := by
  rcases execCcmSeal_cases s with ⟨d, hd, e⟩ | ⟨hd, _⟩
  · cases hc.symm.trans hd
    exact next_ended e hs rfl
  · cases hc.symm.trans hd

theorem exec_ccmOpen_stop (hs : s.seq = .busy w) (hc : s.ccmInputCheck = some c) :
    exec .ccmOpen s = .next (({ s with olen := 0 } : State).ended w c c) := by
  rcases execCcmOpen_cases s with ⟨d, hd, e⟩ | ⟨hd, _⟩ | ⟨_, hd, _⟩
  · cases hc.symm.trans hd
    exact next_ended e hs rfl
  · cases hc.symm.trans hd
  · cases hc.symm.trans hd

theorem exec_ccmTag_stop (hs : s.seq = .busy w) (hc : s.ccmInputCheck = some c) :
    exec .ccmTag s = .next (s.ended w c c) := by
  rcases execCcmTag_cases s with ⟨d, hd, e⟩ | ⟨hd, _⟩
  · cases hc.symm.trans hd
    exact next_ended e hs rfl
  · cases hc.symm.trans hd

theorem exec_ctrXor_stop (hs : s.seq = .busy w) (hc : s.ctrInputCheck = some c) :
    exec .ctrXor s = .next (({ s with olen := 0 } : State).ended w c c) := by
  rcases execCtrXor_cases s with ⟨d, hd, e⟩ | ⟨hd, _⟩
  · cases hc.symm.trans hd
    exact next_ended e hs rfl
  · cases hc.symm.trans hd

/-- The tag that CCM_SEAL and CCM_TAG compute and CCM_OPEN expects of the plaintext p (spec 41 R186 to R188). -/
def State.tagOf (s : State) (p : List Byte) : List Byte :=
  cbcMac s.latch.keyBytes s.nonceOperand s.latch.m.toNat s.aadIn p

/-- The CTR transform of a byte string under the latch and the nonce operand (spec 41 R186, R189). -/
def State.ctrOf (s : State) (d : List Byte) : List Byte := ctr s.latch.keyBytes s.nonceOperand d

/-- CCM_SEAL past its checks (spec 41 R186). -/
theorem exec_ccmSeal_ok (hc : s.ccmInputCheck = none) :
    exec .ccmSeal s =
      .next ((((s.writeMem dbufBase (s.ctrOf s.dataIn)).withTag (tagPadded (s.tagOf s.dataIn))).withOlen
        s.len).complete .ok .ok) := by
  rcases execCcmSeal_cases s with ⟨_, hd, _⟩ | ⟨_, e⟩
  · cases hc.symm.trans hd
  · exact e

/-- CCM_OPEN past its checks with the right tag (spec 41 R187). -/
theorem exec_ccmOpen_ok (hc : s.ccmInputCheck = none) (ht : s.tagOf (s.ctrOf s.dataIn) = s.tagOperand) :
    exec .ccmOpen s =
      .next (((s.writeMem dbufBase (s.ctrOf s.dataIn)).withOlen s.len).complete .ok .ok) := by
  have hopen := ccmOpenFn_eq_some.2 ⟨rfl, ht⟩
  rcases execCcmOpen_cases s with ⟨_, hd, _⟩ | ⟨_, hn, _⟩ | ⟨p, _, hp, e⟩
  · cases hc.symm.trans hd
  · cases hopen.symm.trans hn
  · cases hopen.symm.trans hp
    exact e

/-- CCM_OPEN past its checks with a wrong tag (spec 41 R187). -/
theorem exec_ccmOpen_wrongTag (hs : s.seq = .busy w) (hc : s.ccmInputCheck = none)
    (ht : s.tagOf (s.ctrOf s.dataIn) ≠ s.tagOperand) :
    exec .ccmOpen s = .next (({ s with olen := 0 } : State).ended w .authenticationFailed .authenticationFailed) := by
  rcases execCcmOpen_cases s with ⟨_, hd, _⟩ | ⟨_, _, e⟩ | ⟨p, _, hp, _⟩
  · cases hc.symm.trans hd
  · exact next_ended e hs rfl
  · obtain ⟨rfl, htag⟩ := ccmOpenFn_eq_some.1 hp
    exact absurd htag ht

/-- CCM_TAG past its checks (spec 41 R188). -/
theorem exec_ccmTag_ok (hc : s.ccmInputCheck = none) :
    exec .ccmTag s = .next ((s.withTag (tagPadded (s.tagOf s.dataIn))).complete .ok .ok) := by
  rcases execCcmTag_cases s with ⟨_, hd, _⟩ | ⟨_, e⟩
  · cases hc.symm.trans hd
  · exact e

/-- CTR_XOR past its checks (spec 41 R189). -/
theorem exec_ctrXor_ok (hc : s.ctrInputCheck = none) :
    exec .ctrXor s = .next (((s.writeMem dbufBase (s.ctrOf s.dataIn)).withOlen s.len).complete .ok .ok) := by
  rcases execCtrXor_cases s with ⟨_, hd, _⟩ | ⟨_, e⟩
  · cases hc.symm.trans hd
  · exact e

end meanings

/-- Settles O38: each failing check answers its code, and the three commands stop on it. -/
theorem ccmInputChecksInOrder : Obligations.CcmInputChecksInOrder := by
  intro s w hs stops
  have stop : ∀ {c}, s.ccmInputCheck = some c → stops c := fun hc =>
    ⟨exec_ccmSeal_stop hs hc, exec_ccmOpen_stop hs hc, exec_ccmTag_stop hs hc⟩
  exact ⟨fun h => stop (State.ccmInputCheck_notReady h), fun hr h => stop (State.ccmInputCheck_tooLong hr h),
    fun hr _ _ h => stop (State.ccmInputCheck_empty hr h)⟩

/-! The effects in place -/

/-- A legal latch's CTR transform keeps the length (spec 41 R181). -/
theorem State.ctrOf_length {s : State} (hr : s.latch.ready = true) (hl : s.latch.Legal) (d : List Byte) :
    (s.ctrOf d).length = d.length :=
  ctr_length (hl.keyLength hr) _ d

/-- A legal latch's CTR transform is its own inverse (spec 41 R181). -/
theorem State.ctrOf_ctrOf {s : State} (hr : s.latch.ready = true) (hl : s.latch.Legal) (d : List Byte) :
    s.ctrOf (s.ctrOf d) = d :=
  ctr_ctr (hl.keyLength hr) _ d

/-- A legal latch's tag has M bytes (spec 41 R178). -/
theorem State.tagOf_length {s : State} (hr : s.latch.ready = true) (hl : s.latch.Legal) (p : List Byte) :
    (s.tagOf p).length = s.latch.m.toNat :=
  cbcMac_length (hl.keyLength hr) _ (hl.tagSize_le hr) _ p

/-- A write of n bytes to DBUF is read back from DBUF[0..n). -/
theorem State.writeMem_dbuf (s : State) {bs : List Byte} {n : Nat} (h : bs.length = n) :
    (s.writeMem dbufBase bs).dbuf n = bs := by
  subst h
  exact s.writeMem_bytesAt dbufBase bs

/-- A write of n bytes changes no byte outside its range. -/
theorem State.writeMem_sameBytesOutside (s : State) (base : Nat) {bs : List Byte} {n : Nat} (h : bs.length = n) :
    SameBytesOutside base n s (s.writeMem base bs) := by
  subst h
  intro a ha
  rw [State.writeMem_byteAt, if_neg ha]

/-- TAG after CCM_SEAL and CCM_TAG: the tag, then zeros (spec 10 R55). -/
theorem State.tag_spec {s : State} (hr : s.latch.ready = true) (hl : s.latch.Legal) (p : List Byte) :
    (unpack 16 (pack 128 (tagPadded (s.tagOf p)))).take s.latch.m.toNat = s.tagOf p ∧
      (unpack 16 (pack 128 (tagPadded (s.tagOf p)))).drop s.latch.m.toNat = zeros (16 - s.latch.m.toNat) := by
  have hlen := s.tagOf_length hr hl p
  have hspec := tagPadded_spec (t := s.tagOf p) (hlen ▸ hl.tagSize_le hr)
  rwa [hlen] at hspec

/-- The input DBUF[0..LEN) transformed in place: it reads back, and no other byte changes. -/
theorem State.ctrInPlace {s : State} (hr : s.latch.ready = true) (hl : s.latch.Legal) :
    (s.writeMem dbufBase (s.ctrOf s.dataIn)).dbuf s.len.toNat = s.ctrOf s.dataIn ∧
      SameBytesOutside dbufBase s.len.toNat s (s.writeMem dbufBase (s.ctrOf s.dataIn)) := by
  have hlen : (s.ctrOf s.dataIn).length = s.len.toNat := (s.ctrOf_length hr hl _).trans s.dataIn_length
  exact ⟨s.writeMem_dbuf hlen, s.writeMem_sameBytesOutside dbufBase hlen⟩

/-- Settles O39: the transform in place (`State.ctrInPlace`) and the tag with its zeros (`State.tag_spec`). -/
theorem ccmSealEncryptsInPlace : Obligations.CcmSealEncryptsInPlace := by
  intro s w hs hr hl hne hlen halen
  obtain ⟨hdata, hframe⟩ := State.ctrInPlace hr hl
  obtain ⟨htag, hzeros⟩ := s.tag_spec hr hl s.dataIn
  refine ⟨_, exec_ccmSeal_ok (s.ccmInputCheck_none.2 ⟨hr, hlen, halen, hne⟩), ?_, hdata, hframe, htag, hzeros⟩
  exact State.complete_eq_ended hs (by rfl) .ok .ok

/-- Settles O40: CCM_OPEN goes by the comparison of the tags (`exec_ccmOpen_ok`, `exec_ccmOpen_wrongTag`). -/
theorem ccmOpenAuthenticates : Obligations.CcmOpenAuthenticates := by
  intro s w hs hr hl hne hlen halen
  have hc := s.ccmInputCheck_none.2 ⟨hr, hlen, halen, hne⟩
  obtain ⟨hdata, hframe⟩ := State.ctrInPlace hr hl
  refine ⟨fun ht => ⟨_, exec_ccmOpen_ok hc ht, ?_, hdata, hframe⟩, exec_ccmOpen_wrongTag hs hc⟩
  exact State.complete_eq_ended hs (by rfl) .ok .ok

/-- Settles O41: both commands write the same padded tag (`exec_ccmTag_ok`, `exec_ccmSeal_ok`). -/
theorem ccmTagWritesTag : Obligations.CcmTagWritesTag := by
  intro s w hs hr hl hne hlen halen
  have hc := s.ccmInputCheck_none.2 ⟨hr, hlen, halen, hne⟩
  obtain ⟨htag, hzeros⟩ := s.tag_spec hr hl s.dataIn
  refine ⟨_, exec_ccmTag_ok hc, ?_, htag, hzeros, _, exec_ccmSeal_ok hc, rfl⟩
  exact State.complete_eq_ended hs (by rfl) .ok .ok

/-- Settles O42: the two failing checks, and the transform in place (`State.ctrInPlace`). -/
theorem ctrXorInPlace : Obligations.CtrXorInPlace := by
  intro s w hs
  refine ⟨fun h => exec_ctrXor_stop hs (State.ctrInputCheck_notReady h),
    fun hr h => exec_ctrXor_stop hs (State.ctrInputCheck_tooLong hr h), fun hr hl hlen => ?_⟩
  obtain ⟨hdata, hframe⟩ := State.ctrInPlace hr hl
  refine ⟨_, exec_ctrXor_ok (s.ctrInputCheck_none.2 ⟨hr, hlen⟩), ?_, hdata, hframe⟩
  exact State.complete_eq_ended hs (by rfl) .ok .ok

/-! The round trips -/

/-- A CCM_SEAL that reports OK passed its checks (spec 41 R185). -/
theorem ccmInputCheck_of_seal_ok {s t : State} (h : exec .ccmSeal s = .next t) (hok : t.code = .ok) :
    s.ccmInputCheck = none := by
  rcases execCcmSeal_cases s with ⟨c, hc, e⟩ | ⟨hc, _⟩
  · obtain rfl := Host.Outcome.next.inj (h.symm.trans e)
    obtain rfl : c = .ok := hok
    rcases State.ccmInputCheck_some hc with h | h <;> cases h
  · exact hc

/-- A CTR_XOR that reports OK passed its checks (spec 41 R189). -/
theorem ctrInputCheck_of_ctrXor_ok {s t : State} (h : exec .ctrXor s = .next t) (hok : t.code = .ok) :
    s.ctrInputCheck = none := by
  rcases execCtrXor_cases s with ⟨c, hc, e⟩ | ⟨hc, _⟩
  · obtain rfl := Host.Outcome.next.inj (h.symm.trans e)
    obtain rfl : c = .ok := hok
    rcases State.ctrInputCheck_some hc with h | h <;> cases h
  · exact hc

/-- The operands of the CCM commands but for DBUF and TAG are in v what they are in s (spec 41 R173, R185). -/
structure SameCcmOperands (s v : State) : Prop where
  params : v.params = s.params
  latch : v.latch = s.latch
  nonce : v.nonce = s.nonce
  len : v.len = s.len
  alen : v.alen = s.alen
  aad : ∀ n, v.abuf n = s.abuf n

namespace SameCcmOperands

theorem refl (s : State) : SameCcmOperands s s := by constructor <;> intros <;> rfl

section uses

variable {s v : State} (h : SameCcmOperands s v)
include h

theorem complete (c d : ResultCode) : SameCcmOperands s (v.complete c d) := { h with }

theorem accept (w : Word) : SameCcmOperands s (v.accept w) := { h with }

theorem withOlen (n : BitVec 16) : SameCcmOperands s (v.withOlen n) := { h with }

theorem withTag (t : List Byte) : SameCcmOperands s (v.withTag t) := { h with }

/-- A write to DBUF of up to 1024 bytes leaves ABUF alone (spec 20 R85, R86). -/
theorem writeDbuf {bs : List Byte} (hbs : bs.length ≤ 1024) : SameCcmOperands s (v.writeMem dbufBase bs) :=
  { h with
    aad := fun n => (v.writeMem_bytesAt_outside dbufBase bs abufBase n
      (.inr (by simp only [dbufBase, abufBase]; omega))).trans (h.aad n) }

theorem ctrOf (d : List Byte) : v.ctrOf d = s.ctrOf d := by
  simp only [State.ctrOf, State.nonceOperand, h.latch, h.nonce]

theorem tagOf (p : List Byte) : v.tagOf p = s.tagOf p := by
  simp only [State.tagOf, State.nonceOperand, State.aadIn, h.latch, h.nonce, h.alen, h.aad]

theorem ccmInputCheck : v.ccmInputCheck = s.ccmInputCheck := by
  rw [State.ccmInputCheck, State.lenTooBig, State.alenTooBig, h.params, h.latch, h.len, h.alen]
  rfl

theorem ctrInputCheck : v.ctrInputCheck = s.ctrInputCheck := by
  rw [State.ctrInputCheck, State.lenTooBig, h.params, h.latch, h.len]
  rfl

/-- When DBUF holds the transformed input, transforming it again and writing it back restores every byte. -/
theorem ctrOf_restores (hr : s.latch.ready = true) (hl : s.latch.Legal) (hdata : v.dataIn = s.ctrOf s.dataIn)
    (hframe : SameBytesOutside dbufBase s.len.toNat s v) :
    v.ctrOf v.dataIn = s.dataIn ∧ SameBytes s (v.writeMem dbufBase (v.ctrOf v.dataIn)) := by
  have hback : v.ctrOf v.dataIn = s.dataIn := by rw [h.ctrOf, hdata, s.ctrOf_ctrOf hr hl]
  exact ⟨hback, hback ▸ State.writeMem_restores hframe⟩

end uses

end SameCcmOperands

/-- The transformed input fits in DBUF. -/
theorem Invariant.ctrOf_fits {s : State} (inv : Invariant s) (hr : s.latch.ready = true)
    (hlen : s.len.toNat ≤ s.params.dbufBytes) : (s.ctrOf s.dataIn).length ≤ 1024 := by
  rw [s.ctrOf_length hr inv.latch, s.dataIn_length]
  exact hlen.trans inv.params.2.1

/-- Settles O43: the sealed state opens to the plaintext (`SameCcmOperands.ctrOf_restores`), its tag operand being the
tag that CCM_SEAL wrote (`State.tag_spec`). -/
theorem sealThenOpenRestores : Obligations.SealThenOpenRestores := by
  intro s t w' inv hseal hok
  have hc := ccmInputCheck_of_seal_ok hseal hok
  obtain ⟨hr, hlen, _, _⟩ := s.ccmInputCheck_none.1 hc
  obtain ⟨hdata, hframe⟩ := State.ctrInPlace hr inv.latch
  obtain rfl := Host.Outcome.next.inj ((exec_ccmSeal_ok hc).symm.trans hseal)
  have same := (((((SameCcmOperands.refl s).writeDbuf (inv.ctrOf_fits hr hlen)).withTag
    (tagPadded (s.tagOf s.dataIn))).withOlen s.len).complete .ok .ok).accept w'
  obtain ⟨hback, hbytes⟩ := same.ctrOf_restores hr inv.latch (by simpa [State.dataIn, State.dbuf] using hdata)
    (by simpa [SameBytesOutside] using hframe)
  refine ⟨_, exec_ccmOpen_ok (same.ccmInputCheck.trans hc) ?_, rfl, same.len, hbytes⟩
  rw [hback, same.tagOf]
  exact (s.tag_spec hr inv.latch s.dataIn).1.symm

/-- Settles O44: the second transform is the inverse of the first (`SameCcmOperands.ctrOf_restores`). -/
theorem ctrXorTwiceRestores : Obligations.CtrXorTwiceRestores := by
  intro s t w' inv hxor hok
  have hc := ctrInputCheck_of_ctrXor_ok hxor hok
  obtain ⟨hr, hlen⟩ := s.ctrInputCheck_none.1 hc
  obtain ⟨hdata, hframe⟩ := State.ctrInPlace hr inv.latch
  obtain rfl := Host.Outcome.next.inj ((exec_ctrXor_ok hc).symm.trans hxor)
  have same := ((((SameCcmOperands.refl s).writeDbuf (inv.ctrOf_fits hr hlen)).withOlen s.len).complete
    .ok .ok).accept w'
  obtain ⟨_, hbytes⟩ := same.ctrOf_restores hr inv.latch (by simpa [State.dataIn, State.dbuf] using hdata)
    (by simpa [SameBytesOutside] using hframe)
  exact ⟨_, exec_ctrXor_ok (same.ctrInputCheck.trans hc), rfl, hbytes⟩

/-! The CTR transform byte by byte -/

/-- Byte j of blocks of n bytes laid end to end is byte j mod n of block j div n. -/
theorem flatten_getD_of_blocks {n : Nat} (hn : 0 < n) {l : List (List Byte)} (h : ∀ b ∈ l, b.length = n) (j : Nat) :
    l.flatten.getD j 0 = (l.getD (j / n) []).getD (j % n) 0 := by
  induction l generalizing j with
  | nil => simp
  | cons b l ih =>
    have hb : b.length = n := h b (List.mem_cons_self ..)
    rw [List.flatten_cons]
    rcases Nat.lt_or_ge j n with hj | hj
    · rw [List.getD_append _ _ _ _ (hb ▸ hj), Nat.div_eq_of_lt hj, Nat.mod_eq_of_lt hj, List.getD_cons_zero]
    · rw [List.getD_append_right _ _ _ _ (hb ▸ hj), hb, ih fun c hc => h c (List.mem_cons_of_mem _ hc),
        Nat.div_eq_sub_div hn hj, Nat.mod_eq_sub_mod hj, List.getD_cons_succ]

/-- Byte j of the keystream is byte j mod 16 of E(K, A_(j div 16)) (spec 41 R180). -/
theorem keystream_getD {k : List Byte} (hk : aesKeyLength k.length = true) (nonce : List Byte) {n j : Nat}
    (hj : j < n) : (keystream k nonce n).getD j 0 = (aes k (counterBlock nonce (j / 16))).getD (j % 16) 0 := by
  have hblocks : ∀ b ∈ (List.range ((n + 15) / 16)).map (fun i => aes k (counterBlock nonce i)), b.length = 16 := by
    intro b hb
    obtain ⟨i, _, rfl⟩ := List.mem_map.1 hb
    exact aes_length hk _
  have hi : j / 16 < (n + 15) / 16 := by omega
  have htake : ∀ l : List Byte, (l.take n).getD j 0 = l.getD j 0 := fun l => by
    simp only [List.getD_eq_getElem?_getD, List.getElem?_take_of_lt hj]
  rw [keystream, htake, List.flatMap_def, flatten_getD_of_blocks (by decide) hblocks]
  simp [hi]

/-- Byte j of the XOR of two strings that both reach it. -/
theorem xorBytes_getD {a b : List Byte} {j : Nat} (ha : j < a.length) (hb : j < b.length) :
    (xorBytes a b).getD j 0 = a.getD j 0 ^^^ b.getD j 0 := by
  rw [List.getD_eq_getElem _ _ (by simp [ha, hb]), List.getD_eq_getElem _ _ ha, List.getD_eq_getElem _ _ hb]
  exact List.getElem_zipWith

/-- Settles O45: the keystream's byte (`keystream_getD`) XORed to the data's. -/
theorem ctrByteByByte : Obligations.CtrByteByByte := by
  intro k nonce d j hk hj
  rw [ctr, xorBytes_getD hj (by rwa [keystream_length hk]), keystream_getD hk nonce hj]
  rfl

/-! The CBC-MAC tag -/

/-- The four fields of a flags byte laid out as spec 41 R175 says, from the reserved bit 7 down to L - 1. -/
theorem flagsByte_fields : ∀ (adata : Bool) (x y : Fin 8),
    let f := BitVec.ofNat 8 (0x40 * adata.toNat + 0x08 * x.val + y.val)
    f.getLsbD 7 = false ∧ f.getLsbD 6 = adata ∧ (f.extractLsb' 3 3).toNat = x.val ∧
      (f.extractLsb' 0 3).toNat = y.val := by
  decide

/-- The fields of B0's flags byte for legal sizes (spec 41 R175). -/
theorem b0Flags_fields {m : Nat} {nonce : List Byte} (h : validParams m nonce.length = true) (aad : List Byte) :
    (b0Flags m nonce aad).getLsbD 7 = false ∧ (b0Flags m nonce aad).getLsbD 6 = decide (aad ≠ []) ∧
      ((b0Flags m nonce aad).extractLsb' 3 3).toNat = (m - 2) / 2 ∧
      ((b0Flags m nonce aad).extractLsb' 0 3).toNat = 15 - nonce.length - 1 := by
  obtain ⟨hn, _, _, _, hm⟩ := (validParams_iff _ _).1 h
  have hfields := flagsByte_fields (decide (aad ≠ [])) ⟨(m - 2) / 2, by omega⟩ ⟨15 - nonce.length - 1, by omega⟩
  have hadata : (decide (aad ≠ [])).toNat = if aad = [] then 0 else 1 := by by_cases ha : aad = [] <;> simp [ha]
  rw [hadata] at hfields
  exact hfields

/-- The flags byte for the protocol's sizes, M = 8 and N = 13 (spec 41 R175). -/
theorem b0Flags_protocol {nonce : List Byte} (h : nonce.length = 13) (aad : List Byte) :
    b0Flags 8 nonce aad = if aad = [] then 0x19 else 0x59 := by
  rw [b0Flags, lengthWidth, h]
  split <;> rfl

/-- The chain X of the CBC-MAC over the 16-byte blocks of b (spec 41 R178). -/
def macChain (k x b : List Byte) : Nat → List Byte
  | 0 => x
  | i + 1 => macStep k (macChain k x b i) ((b.drop (16 * i)).take 16)

/-- What the CBC-MAC folds before the plaintext: nothing without associated data, else the padded length and associated
data (spec 41 R177). -/
def foldedAad (aad : List Byte) : List Byte := if aad = [] then [] else pad16 (beBytes 2 aad.length ++ aad)

theorem foldedAad_length_mod (aad : List Byte) : (foldedAad aad).length % 16 = 0 := by
  unfold foldedAad
  split
  · rfl
  · exact pad16_length_mod _

theorem aadBlocks_eq (aad : List Byte) : aadBlocks aad = blocksOf 16 (foldedAad aad) := by
  unfold aadBlocks foldedAad
  split <;> rfl

/-- The blocks of two strings of whole blocks laid end to end (spec 41 R178). -/
theorem blocksOf_append {a b : List Byte} (h : a.length % 16 = 0) :
    blocksOf 16 (a ++ b) = blocksOf 16 a ++ blocksOf 16 b := by
  have hlen : (a ++ b).length / 16 = a.length / 16 + b.length / 16 := by rw [List.length_append]; omega
  rw [blocksOf, hlen]
  exact takeBlocks_append a b _ _ (by omega)

/-- The CBC-MAC tag is the end of one chain over the associated data and the plaintext, cut to M bytes (spec 41 R178). -/
theorem cbcMac_eq_macChain (k nonce : List Byte) (m : Nat) (aad p : List Byte) :
    cbcMac k nonce m aad p =
      (macChain k (aes k (b0Block m nonce aad p)) (foldedAad aad ++ pad16 p)
        ((foldedAad aad ++ pad16 p).length / 16)).take m := by
  simp only [cbcMac]
  rw [← List.foldl_append, aadBlocks_eq, ← blocksOf_append (foldedAad_length_mod aad), blocksOf]
  exact congrArg (List.take m) (foldl_macStep_eq k _ _ _ (macChain k _ _) rfl fun _ => rfl)

/-- Settles O46: the fields of the flags byte (`b0Flags_fields`), and the chain of `cbcMac_eq_macChain`. -/
theorem tagIsCbcMacChain : Obligations.TagIsCbcMacChain := by
  intro k nonce aad p m hv
  obtain ⟨h7, h6, hm, hl⟩ := b0Flags_fields hv aad
  obtain ⟨_, hn, _⟩ := (validParams_iff _ _).1 hv
  refine ⟨h7, h6, hm, hl, ?_, rfl, b0Block_length m (by omega) aad p, ?_⟩
  · rintro rfl h13
    exact b0Flags_protocol h13 aad
  · exact ⟨macChain k (aes k (b0Block m nonce aad p)) (foldedAad aad ++ pad16 p), rfl, fun _ _ => rfl,
      cbcMac_eq_macChain k nonce m aad p⟩

end Sys2Proof.Machine
end

section
/-! PROOFS of the nonce family (spec 42): a word of packed registers is four bytes of the string (spec 20 R84), and the
bytes and words of the builder's nonce (R220, R221). -/

namespace Sys2Proof.Machine

open Sys2Proof

/-! Words of a packed byte string (spec 20 R84) -/

/-- The low n bytes of a string and the bytes above them, at every cut (spec 00 R13). -/
theorem fromLE_cut (b : List Byte) (n : Nat) :
    fromLE (b.take n) < 2 ^ (8 * n) ∧ fromLE b = fromLE (b.take n) + 2 ^ (8 * n) * fromLE (b.drop n) := by
  have hlow : fromLE (b.take n) < 2 ^ (8 * n) :=
    Nat.lt_of_lt_of_le (fromLE_lt _) (Nat.pow_le_pow_right (by decide) (by rw [List.length_take]; omega))
  refine ⟨hlow, ?_⟩
  by_cases h : n ≤ b.length
  · have hsplit := fromLE_append (b.take n) (b.drop n)
    rwa [List.take_append_drop, List.length_take_of_le h] at hsplit
  · have hshort : b.length ≤ n := Nat.le_of_not_le h
    rw [List.take_of_length_le hshort, List.drop_eq_nil_of_le hshort, fromLE, Nat.mul_zero, Nat.add_zero]

theorem fromLE_drop (b : List Byte) (n : Nat) : fromLE (b.drop n) = fromLE b / 2 ^ (8 * n) := by
  obtain ⟨hlow, hcut⟩ := fromLE_cut b n
  rw [hcut, Nat.add_mul_div_left _ _ (Nat.two_pow_pos _), Nat.div_eq_of_lt hlow, Nat.zero_add]

theorem fromLE_take (b : List Byte) (n : Nat) : fromLE (b.take n) = fromLE b % 2 ^ (8 * n) := by
  obtain ⟨hlow, hcut⟩ := fromLE_cut b n
  rw [hcut, Nat.add_mul_mod_self_left, Nat.mod_eq_of_lt hlow]

/-- Word k of packed registers holds bytes 4k to 4k+3 of the string, fewer where the string ends (spec 20 R84). -/
theorem getWord_pack {w : Nat} {b : List Byte} (h : 8 * b.length ≤ w) (k : Nat) :
    getWord (pack w b) k = pack 32 ((b.drop (4 * k)).take 4) := by
  apply BitVec.eq_of_toNat_eq
  have hlen : 8 * ((b.drop (4 * k)).take 4).length ≤ 32 := by rw [List.length_take]; omega
  rw [pack_toNat 32 _ hlen, fromLE_take, fromLE_drop, getWord, BitVec.extractLsb'_toNat, pack_toNat w b h,
    Nat.shiftRight_eq_div_pow, show 8 * (4 * k) = 32 * k by omega]

/-! The builder's nonce (spec 42 R220, R221) -/

section builder

variable (packetId sender extraNonce : Word)

/-- The builder's nonce fills the bits of the NONCE registers (spec 42 R222). -/
theorem buildNonce_fits : 8 * (buildNonce packetId sender extraNonce).length ≤ 104 := by rw [buildNonce_length]

/-- The nonce registers hold the 13 bytes of the builder (spec 42 R220). -/
theorem unpack_buildNonce :
    unpack 13 (pack 104 (buildNonce packetId sender extraNonce)) = buildNonce packetId sender extraNonce := by
  have hread := unpack_pack 104 _ (buildNonce_fits packetId sender extraNonce)
  rwa [buildNonce_length] at hread

/-- NONCE word k after the builder, from the bytes the layout has there (spec 20 R84, spec 42 R220). -/
theorem getWord_buildNonce {k : Nat} {v : Word}
    (h : ((buildNonce packetId sender extraNonce).drop (4 * k)).take 4 = unpack 4 v) :
    getWord (pack 104 (buildNonce packetId sender extraNonce)) k = v := by
  rw [getWord_pack (buildNonce_fits packetId sender extraNonce), h, pack_unpack 4 v rfl]

/-- The last NONCE word, of which the builder has only byte 12, which is 0 (spec 42 R220, R221). -/
theorem getWord_buildNonce_last : getWord (pack 104 (buildNonce packetId sender extraNonce)) 3 = 0 := by
  have hbyte : ((buildNonce packetId sender extraNonce).drop (4 * 3)).take 4 = [0x00] := rfl
  rw [getWord_pack (buildNonce_fits packetId sender extraNonce), hbyte]
  rfl

end builder

/-- NONCE_BUILD as one write of the nonce registers and a completion (spec 42 R221). -/
theorem exec_nonceBuild (s : State) :
    exec .nonceBuild s = .next ((s.withNonce (buildNonce s.pktid s.sender s.xnonce)).complete .ok .ok) := rfl

/-- Settles O36: the registers hold the builder's bytes (`unpack_buildNonce`), and so each word is the operand laid out
there (`getWord_buildNonce`). -/
theorem nonceBuildLayout : Obligations.NonceBuildLayout := by
  intro s w hs
  refine ⟨_, exec_nonceBuild s, ?frame, unpack_buildNonce s.pktid s.sender s.xnonce,
    ?packetId, ?extraNonce, ?sender, getWord_buildNonce_last s.pktid s.sender s.xnonce⟩
  case frame => exact State.complete_eq_ended (u := s.withNonce _) hs rfl .ok .ok
  case packetId => exact getWord_buildNonce s.pktid s.sender s.xnonce rfl
  case extraNonce => exact getWord_buildNonce s.pktid s.sender s.xnonce rfl
  case sender => exact getWord_buildNonce s.pktid s.sender s.xnonce rfl

end Sys2Proof.Machine
end

section
/-! PROOFS of the X25519 family (spec 43): the bits of a decoded scalar (R231), the field operations as those of the
integers modulo p (R230), the power of the final inversion (R234), the point 0 in the ladder (R238), and what
X25519_BASE and X25519 leave in OUT (R240, R241). -/

namespace Sys2Proof.Machine

open Sys2Proof

/-! The decoded scalar (spec 43 R231) -/

/-- Bit i of the integer a byte string encodes is bit i mod 8 of its byte i div 8 (spec 00 R13). -/
theorem fromLE_testBit (b : List Byte) (i : Nat) :
    (fromLE b).testBit i = (b.getD (i / 8) 0).getLsbD (i % 8) := by
  induction b generalizing i with
  | nil => simp [fromLE]
  | cons x b ih =>
    have hcut : fromLE (x :: b) = 2 ^ 8 * fromLE b + x.toNat := Nat.add_comm _ _
    rw [hcut, Nat.testBit_two_pow_mul_add _ x.isLt]
    split
    case isTrue h => rw [Nat.div_eq_of_lt h, Nat.mod_eq_of_lt h, List.getD_cons_zero, BitVec.testBit_toNat]
    case isFalse h =>
      have h8 : 8 ≤ i := Nat.le_of_not_lt h
      rw [ih, Nat.div_eq_sub_div (by decide) h8, Nat.mod_eq_sub_mod h8, List.getD_cons_succ]

/-- Byte j of a clamped string (spec 43 R231). -/
theorem clamp_getD {k : List Byte} (hk : k.length = 32) (j : Nat) :
    (clamp k).getD j 0 =
      if j = 0 then k.getD 0 0 &&& 0xF8
      else if j = 31 then k.getD 31 0 &&& 0x7F ||| 0x40
      else k.getD j 0 := by
  simp only [clamp, List.getD_eq_getElem?_getD, List.getElem?_set, List.length_set, hk]
  by_cases h0 : j = 0
  · simp [h0]
  by_cases h31 : j = 31
  · simp [h31]
  · simp [h0, h31, Ne.symm h0, Ne.symm h31]

/-- The low three bits of byte 0 are cleared (spec 43 R231). -/
theorem clampLow_getLsbD (x : Byte) {i : Nat} (h : i < 8) :
    (x &&& 0xF8).getLsbD i = if i < 3 then false else x.getLsbD i := by
  have hmask : ∀ i < 8, (0xF8 : Byte).getLsbD i = decide (3 ≤ i) := by decide
  rw [BitVec.getLsbD_and, hmask i h]
  by_cases h3 : i < 3
  · simp [h3]
  · simp [h3, Nat.le_of_not_lt h3]

/-- Bit 7 of byte 31 is cleared and bit 6 is set (spec 43 R231). -/
theorem clampHigh_getLsbD (x : Byte) {i : Nat} (h : i < 8) :
    (x &&& 0x7F ||| 0x40).getLsbD i = if i = 6 then true else if i < 6 then x.getLsbD i else false := by
  have hclear : ∀ i < 8, (0x7F : Byte).getLsbD i = decide (i < 7) := by decide
  have hset : ∀ i < 8, (0x40 : Byte).getLsbD i = decide (i = 6) := by decide
  rw [BitVec.getLsbD_or, BitVec.getLsbD_and, hclear i h, hset i h]
  by_cases h6 : i = 6
  · simp [h6]
  by_cases hlt : i < 6
  · simp [hlt, h6, show i < 7 by omega]
  · simp [hlt, h6, show ¬i < 7 by omega]

/-- Settles O53: the bits by their byte (`fromLE_testBit`), of which clamping changes the first and the last. -/
theorem clampedScalarBits : Obligations.ClampedScalarBits := by
  intro k hk i
  have hbit : i % 8 < 8 := Nat.mod_lt _ (by decide)
  rw [decodeScalar, fromLE_testBit, fromLE_testBit, clamp_getD hk]
  by_cases hfirst : i / 8 = 0
  · rw [if_pos hfirst, clampLow_getLsbD _ hbit, hfirst]
    grind
  by_cases hlast : i / 8 = 31
  · rw [if_neg hfirst, if_pos hlast, clampHigh_getLsbD _ hbit, hlast]
    grind
  rw [if_neg hfirst, if_neg hlast]
  by_cases hin : i / 8 < 32
  · grind
  · rw [List.getD_eq_default _ _ (by omega)]
    grind

/-! The field modulo p (spec 43 R230) -/

theorem fadd_cast (a b : Nat) : (fadd a b : ZMod fieldPrime) = a + b := by
  rw [fadd, ZMod.natCast_mod, Nat.cast_add]

theorem fsub_cast (a b : Nat) : (fsub a b : ZMod fieldPrime) = a - b := by
  have hle : b % fieldPrime ≤ fieldPrime := (Nat.mod_lt b fieldPrime_pos).le
  rw [fsub, ZMod.natCast_mod, Nat.cast_add, Nat.cast_sub hle, ZMod.natCast_mod, ZMod.natCast_self, zero_sub,
    sub_eq_add_neg]

theorem fmul_cast (a b : Nat) : (fmul a b : ZMod fieldPrime) = a * b := by
  rw [fmul, ZMod.natCast_mod, Nat.cast_mul]

/-- A representative below p is 0 when its class is. -/
theorem eq_zero_of_cast_eq_zero {a : Nat} (ha : a < fieldPrime) (h : (a : ZMod fieldPrime) = 0) : a = 0 :=
  Nat.eq_zero_of_dvd_of_lt ((ZMod.natCast_eq_zero_iff a fieldPrime).1 h) ha

/-- Repeated squaring by the binary digits of the exponent (spec 43 R234). -/
theorem fpow_cast {bits e : Nat} (b : Nat) (h : e < 2 ^ bits) :
    (fpow b bits e : ZMod fieldPrime) = (b : ZMod fieldPrime) ^ e := by
  induction bits generalizing b e with
  | zero =>
    obtain rfl : e = 0 := by omega
    rw [fpow, Nat.cast_one, pow_zero]
  | succ bits ih =>
    have hhalf : (fpow (fmul b b) bits (e / 2) : ZMod fieldPrime) = (b : ZMod fieldPrime) ^ (2 * (e / 2)) := by
      rw [ih _ (by omega), fmul_cast, ← pow_two, ← pow_mul]
    rw [fpow]
    split
    case isTrue hodd => rw [fmul_cast, hhalf, ← pow_succ', show 2 * (e / 2) + 1 = e by omega]
    case isFalse heven => rw [hhalf, show 2 * (e / 2) = e by omega]

/-- Settles O54: the two powers are one class modulo p (`fpow_cast`). -/
theorem fieldPowerIsPower : Obligations.FieldPowerIsPower := by
  intro bits b e h
  refine (ZMod.natCast_eq_natCast_iff' _ _ _).1 ?_
  rw [fpow_cast b h, Nat.cast_pow]

/-! The point 0 in the ladder (spec 43 R234, R238) -/

/-- Each of the ladder's points has a coordinate 0, as the point 0 and the point at infinity have. -/
def Ladder.AtZero (l : Ladder) : Prop := (l.x2 = 0 ∨ l.z2 = 0) ∧ (l.x3 = 0 ∨ l.z3 = 0)

/-- A swap exchanges the two points or does nothing (spec 43 R235). -/
theorem ladderSwap_cases (swap : Bool) (l : Ladder) :
    ladderSwap swap l = l ∨ ladderSwap swap l = { l with x2 := l.x3, z2 := l.z3, x3 := l.x2, z3 := l.z2 } := by
  cases swap
  · exact .inl rfl
  · exact .inr rfl

theorem Ladder.AtZero.ladderSwap {l : Ladder} (h : l.AtZero) (swap : Bool) : (ladderSwap swap l).AtZero := by
  rcases ladderSwap_cases swap l with e | e
  · rw [e]; exact h
  · rw [e]; exact h.symm

/-- The doubling of (x2 : z2) has e = (x2 + z2)^2 - (x2 - z2)^2 = 4 x2 z2, which is 0 (spec 43 R234). -/
theorem ladderArith_z2_eq_zero (x1 : Nat) {l : Ladder} (h : l.x2 = 0 ∨ l.z2 = 0) : (ladderArith x1 l).z2 = 0 := by
  have hprod : (l.x2 : ZMod fieldPrime) * l.z2 = 0 := by
    rw [← Nat.cast_mul, Nat.mul_eq_zero.2 h, Nat.cast_zero]
  refine eq_zero_of_cast_eq_zero (fmul_lt _ _) ?_
  simp only [ladderArith, fmul_cast, fsub_cast, fadd_cast]
  linear_combination (4 * (((l.x2 : ZMod fieldPrime) + l.z2) ^ 2 +
    (121665 : Nat) * (((l.x2 : ZMod fieldPrime) + l.z2) ^ 2 - (l.x2 - l.z2) ^ 2))) * hprod

/-- The difference point's x1 = 0 is a factor of z3 (spec 43 R234). -/
theorem ladderArith_z3_eq_zero (l : Ladder) : (ladderArith 0 l).z3 = 0 := by
  simp only [ladderArith, fmul, Nat.zero_mul, Nat.zero_mod]

/-- An iteration on the point 0 leaves both z coordinates 0. -/
theorem ladderStep_z_eq_zero {l : Ladder} (h : l.AtZero) (kt : Bool) :
    (ladderStep 0 kt l).z2 = 0 ∧ (ladderStep 0 kt l).z3 = 0 :=
  ⟨ladderArith_z2_eq_zero 0 (h.ladderSwap (l.swap ^^ kt)).1, ladderArith_z3_eq_zero _⟩

/-- So do n + 1 iterations, whatever the scalar. -/
theorem ladderLoop_z_eq_zero (k n : Nat) {l : Ladder} (h : l.AtZero) :
    (ladderLoop k 0 (n + 1) l).z2 = 0 ∧ (ladderLoop k 0 (n + 1) l).z3 = 0 := by
  induction n generalizing l with
  | zero => exact ladderStep_z_eq_zero h (k.testBit 0)
  | succ n ih =>
    obtain ⟨hz2, hz3⟩ := ladderStep_z_eq_zero h (k.testBit (n + 1))
    exact ih ⟨.inr hz2, .inr hz3⟩

/-- The inversion gives 0 on 0, and so does the ladder (spec 43 R234). -/
theorem fmul_fpow_zero (x : Nat) : fmul x (fpow 0 255 (fieldPrime - 2)) = 0 := by
  refine eq_zero_of_cast_eq_zero (fmul_lt _ _) ?_
  rw [fmul_cast, fpow_cast 0 (by decide), Nat.cast_zero, zero_pow (by decide), mul_zero]

/-- The ladder of the point 0 is 0 for every scalar (spec 43 R238). -/
theorem ladder_zero (k : Nat) : ladder k 0 = 0 := by
  have hstart : Ladder.AtZero { x2 := 1, z2 := 0, x3 := 0, z3 := 1, swap := false } := ⟨.inr rfl, .inl rfl⟩
  obtain ⟨hz2, hz3⟩ := ladderLoop_z_eq_zero k 254 hstart
  rw [ladder]
  generalize ladderLoop k 0 255 _ = l at hz2 hz3
  have hz : (ladderSwap l.swap l).z2 = 0 := by
    rcases ladderSwap_cases l.swap l with e | e
    · rw [e]; exact hz2
    · rw [e]; exact hz3
  simp only [hz, fmul_fpow_zero]

/-- The point 0 in its canonical encoding and as p (spec 43 R232, R238). -/
theorem decodeU_zeroPoint {v : BitVec 256} (h : v = 0 ∨ v = BitVec.ofNat 256 (2 ^ 255 - 19)) :
    decodeU (unpack 32 v) = 0 := by
  rcases h with rfl | rfl
  · decide
  · decide

/-- The product with the point 0 is all zero (spec 43 R238). -/
theorem x25519_of_decodeU_zero (k : List Byte) {u : List Byte} (h : decodeU u = 0) : x25519 k u = zeros 32 := by
  rw [x25519, h, ladder_zero, leBytes_zero]

/-! The key commands (spec 43 R240, R241, spec 45 R293) -/

theorem KeySlot.privOk_iff (k : KeySlot) : k.privOk = true ↔ k.type = .priv ∧ k.klen = 32 := by
  simp [KeySlot.privOk, BitVec.toNat_eq]

theorem KeySlot.pubOk_iff (k : KeySlot) : k.pubOk = true ↔ k.type = .pub ∧ k.klen = 32 := by
  simp [KeySlot.pubOk, BitVec.toNat_eq]

/-- OUT holds an X25519 result byte by byte (spec 43 R236, spec 20 R84). -/
theorem unpack_pack_x25519 (k u : List Byte) : unpack 32 (pack 256 (x25519 k u)) = x25519 k u := by
  have hread := unpack_pack 256 (x25519 k u) (by simp)
  rwa [x25519_length] at hread

/-- An all-zero result is OUT = 0 (spec 43 R241). -/
theorem State.withOut_zeros (s : State) : s.withOut (zeros 32) = { s with out := 0 } := by
  rw [State.withOut, pack_zeros]

/-- A cleared DKEY is DKEY = 0 and DKEY_VALID = 0 (spec 45 R293). -/
theorem State.withDkey_cleared (s : State) :
    s.withDkey (zeros 32) false = { s with dkey := 0, dkeyValid := false } := by
  rw [State.withDkey, pack_zeros]

/-- Settles O48: the slot's key is usable or not (`execX25519Base_cases`), and OUT reads back (`unpack_pack_x25519`). -/
theorem x25519BaseWritesPublicKey : Obligations.X25519BaseWritesPublicKey := by
  intro s w ks hs
  rw [← KeySlot.privOk_iff]
  rcases execX25519Base_cases ks s with ⟨hok, e⟩ | ⟨hno, e⟩
  · refine ⟨fun _ => ⟨_, e, ?_, unpack_pack_x25519 _ _⟩, fun hno => absurd hok hno⟩
    exact State.complete_eq_ended (u := s.withOut _) hs rfl .ok .ok
  · exact ⟨fun hok => absurd hok (by simp [hno]), fun _ => next_ended e hs rfl⟩

/-- X25519 with an all-zero product (spec 43 R241). -/
theorem exec_x25519_zero {s : State} {w : Word} (hs : s.seq = .busy w) (h0 : s.slot0.privOk = true)
    (h1 : s.slot1.pubOk = true) (hz : x25519 s.slot0.bytes s.slot1.bytes = zeros 32) :
    exec .x25519 s = .next (({ s with out := 0 } : State).ended w .keyAgreementFailed .keyAgreementFailed) := by
  rcases execX25519_cases s with ⟨_, _, _, e⟩ | ⟨_, _, hne, _⟩ | ⟨hno, _⟩
  · rw [hz, State.withOut_zeros] at e
    exact next_ended e hs rfl
  · exact absurd hz hne
  · exact absurd ⟨h0, h1⟩ hno

/-- X25519 with a product that is not all zero (spec 43 R241). -/
theorem exec_x25519_product {s : State} (h0 : s.slot0.privOk = true) (h1 : s.slot1.pubOk = true)
    (hz : x25519 s.slot0.bytes s.slot1.bytes ≠ zeros 32) :
    exec .x25519 s = .next ((s.withOut (x25519 s.slot0.bytes s.slot1.bytes)).complete .ok .ok) := by
  rcases execX25519_cases s with ⟨_, _, hzero, _⟩ | ⟨_, _, _, e⟩ | ⟨hno, _⟩
  · exact absurd hzero hz
  · exact e
  · exact absurd ⟨h0, h1⟩ hno

/-- Settles O49: the outcome by the two keys and by whether the product is all zero (`execX25519_cases`). -/
theorem x25519WritesProduct : Obligations.X25519WritesProduct := by
  intro s w hs usable p
  have husable : usable ↔ s.slot0.privOk = true ∧ s.slot1.pubOk = true := by
    rw [KeySlot.privOk_iff, KeySlot.pubOk_iff, and_assoc]
  rw [husable]
  constructor
  · rintro ⟨h0, h1⟩
    by_cases hz : p = zeros 32
    · refine ⟨_, exec_x25519_zero hs h0 h1 hz, ?_, fun hne => absurd hz hne, fun _ => rfl⟩
      rw [hz, ← leBytes_zero]
      rfl
    · refine ⟨_, exec_x25519_product h0 h1 hz, unpack_pack_x25519 _ _, fun _ => ?_, fun h => absurd h hz⟩
      exact State.complete_eq_ended (u := s.withOut _) hs rfl .ok .ok
  · intro hno
    rcases execX25519_cases s with ⟨h0, h1, _⟩ | ⟨h0, h1, _⟩ | ⟨_, e⟩
    · exact absurd ⟨h0, h1⟩ hno
    · exact absurd ⟨h0, h1⟩ hno
    · exact next_ended e hs rfl

/-- DERIVE_KEY with a public peer and an all-zero shared secret (spec 45 R292, R293). -/
theorem exec_deriveKey_zero {s : State} {w : Word} (hs : s.seq = .busy w) (h0 : s.slot0.privOk = true)
    (h1 : s.slot1.pubOk = true) (hz : x25519 s.slot0.bytes s.slot1.bytes = zeros 32) :
    exec .deriveKey s =
      .next (({ s with dkey := 0, dkeyValid := false } : State).ended w .keyAgreementFailed .keyAgreementFailed) := by
  have hnone : deriveSharedKey s.slot0.bytes s.slot1.peerPublic = none := by
    simp [deriveSharedKey, KeySlot.peerPublic, h1, hz]
  rcases execDeriveKey_cases s with ⟨_, _, _, hsome, _⟩ | ⟨_, _, _, e⟩ | ⟨hno, _⟩
  · cases hnone.symm.trans hsome
  · rw [State.withDkey_cleared] at e
    exact next_ended e hs rfl
  · exact absurd ⟨h0, by simp [KeySlot.peerOk, h1]⟩ hno

/-- Settles O55: the product with the point 0 is all zero (`x25519_of_decodeU_zero`), which both commands refuse. -/
theorem zeroPointIsRefused : Obligations.ZeroPointIsRefused := by
  intro s w hs htype0 hklen0 htype1 hklen1 hpoint
  have h0 : s.slot0.privOk = true := s.slot0.privOk_iff.2 ⟨htype0, hklen0⟩
  have h1 : s.slot1.pubOk = true := s.slot1.pubOk_iff.2 ⟨htype1, hklen1⟩
  have hz : x25519 s.slot0.bytes s.slot1.bytes = zeros 32 :=
    x25519_of_decodeU_zero s.slot0.bytes (decodeU_zeroPoint hpoint)
  exact ⟨exec_x25519_zero hs h0 h1 hz, exec_deriveKey_zero hs h0 h1 hz⟩

end Sys2Proof.Machine
end

section
/-! PROOFS of the SHA-256 family (spec 44): DIGEST reads back as the digest it was packed from, and what the command
answers by LEN (R267). -/

namespace Sys2Proof.Machine

open Sys2Proof

/-- DIGEST holds a digest byte by byte (spec 44 R266, spec 20 R84). -/
theorem unpack_pack_sha256 (m : List Byte) : unpack 32 (pack 256 (sha256 m)) = sha256 m := by
  have hread := unpack_pack 256 (sha256 m) (by simp)
  rwa [sha256_length] at hread

/-- Settles O52: LEN fits DBUF or not (`execSha256_cases`), and DIGEST reads back (`unpack_pack_sha256`). -/
theorem sha256WritesDigest : Obligations.Sha256WritesDigest := by
  intro s w hs
  rcases execSha256_cases s with ⟨hlong, e⟩ | ⟨hfits, e⟩
  · exact ⟨fun hfits => absurd hlong (Nat.not_lt.2 hfits), fun _ => next_ended e hs rfl⟩
  · refine ⟨fun _ => ⟨_, e, ?_, unpack_pack_sha256 _⟩, fun hlong => absurd hlong (Nat.not_lt.2 hfits)⟩
    exact State.complete_eq_ended (u := s.withDigest _) hs rfl .ok .ok

end Sys2Proof.Machine
end

section
/-! PROOFS of the key derivation family (spec 45): the two forms of a peer key (R290), what the derivation answers by
its shared secret (R291, R292), and what DERIVE_KEY leaves in DKEY (R293). -/

namespace Sys2Proof.Machine

open Sys2Proof

theorem KeySlot.peerOk_iff (k : KeySlot) : k.peerOk = true ↔ (k.type = .pub ∨ k.type = .priv) ∧ k.klen = 32 := by
  rw [KeySlot.peerOk, Bool.or_eq_true, KeySlot.pubOk_iff, KeySlot.privOk_iff, or_and_right]

/-- The public key of a usable peer, by the form it is held in (spec 45 R290). -/
theorem KeySlot.peerPublic_eq {k : KeySlot} (h : k.peerOk = true) :
    k.peerPublic = if k.type = .pub then k.bytes else x25519 k.bytes (leBytes 32 9) := by
  have hpub : k.pubOk = true ↔ k.type = .pub := by simp [KeySlot.pubOk_iff, (k.peerOk_iff.1 h).2]
  simp only [KeySlot.peerPublic, hpub, publicFromPrivate, basePoint]

theorem deriveSharedKey_eq_none {a b : List Byte} : deriveSharedKey a b = none ↔ x25519 a b = zeros 32 := by
  simp [deriveSharedKey]

theorem deriveSharedKey_eq_some {a b k : List Byte} :
    deriveSharedKey a b = some k ↔ x25519 a b ≠ zeros 32 ∧ sha256 (x25519 a b) = k := by
  simp [deriveSharedKey]

/-- Settles O50: the outcome by the two keys and by the shared secret (`execDeriveKey_cases`), whose digest DKEY reads
back as (`unpack_pack_sha256`). -/
theorem deriveKeyWritesDkey : Obligations.DeriveKeyWritesDkey := by
  intro s w hs usable peer secret cleared
  have husable : usable ↔ s.slot0.privOk = true ∧ s.slot1.peerOk = true := by
    rw [KeySlot.privOk_iff, KeySlot.peerOk_iff, and_assoc]
  rw [husable]
  rcases execDeriveKey_cases s with ⟨k, h0, h1, hsome, e⟩ | ⟨h0, h1, hnone, e⟩ | ⟨hno, e⟩
  case inl =>
    rw [KeySlot.peerPublic_eq h1, deriveSharedKey_eq_some] at hsome
    obtain ⟨hne, hk⟩ := hsome
    have hread : unpack 32 (pack 256 k) = sha256 secret := hk ▸ unpack_pack_sha256 secret
    refine ⟨fun _ => ⟨_, e, ?_, hread⟩, fun ⟨_, hz⟩ => absurd hz hne, fun hno => absurd ⟨h0, h1⟩ hno⟩
    exact State.complete_eq_ended (u := s.withDkey k true) hs rfl .ok .ok
  case inr.inl =>
    rw [KeySlot.peerPublic_eq h1, deriveSharedKey_eq_none] at hnone
    rw [State.withDkey_cleared] at e
    exact ⟨fun ⟨_, hne⟩ => absurd hnone hne, fun _ => next_ended e hs rfl, fun hno => absurd ⟨h0, h1⟩ hno⟩
  case inr.inr =>
    rw [State.withDkey_cleared] at e
    exact ⟨fun ⟨hok, _⟩ => absurd hok hno, fun ⟨hok, _⟩ => absurd hok hno, fun _ => next_ended e hs rfl⟩

/-- DERIVE_KEY sees slot 1 only through peer_ok and the peer's public key (spec 45 R290, R293). -/
theorem exec_deriveKey_slot1_congr (s : State) {a b : KeySlot} (hok : a.peerOk = b.peerOk)
    (hpub : a.peerPublic = b.peerPublic) :
    ∃ t, exec .deriveKey { s with slot1 := a } = .next t ∧
      exec .deriveKey { s with slot1 := b } = .next { t with slot1 := b } := by
  have hexec (u : State) : exec .deriveKey u = execDeriveKey u := rfl
  simp only [hexec, execDeriveKey, hok, hpub]
  split
  · split
    · exact ⟨_, rfl, rfl⟩
    · exact ⟨_, rfl, rfl⟩
  · exact ⟨_, rfl, rfl⟩

/-- The peer of a scalar and the peer of its public key have one public key (spec 45 R290). -/
theorem KeySlot.peerPublic_of_priv {b : KeySlot} (htype : b.type = .priv) (hklen : b.klen = 32) :
    b.peerPublic =
      ({ type := .pub, klen := 32, key := pack 256 (x25519 b.bytes (leBytes 32 9)) } : KeySlot).peerPublic := by
  rw [KeySlot.peerPublic_eq (b.peerOk_iff.2 ⟨.inr htype, hklen⟩), htype, KeySlot.peerPublic_eq rfl]
  exact (unpack_pack_x25519 _ _).symm

/-- Settles O51: the two forms have one public key (`KeySlot.peerPublic_of_priv`), which is all that DERIVE_KEY takes
from slot 1 (`exec_deriveKey_slot1_congr`). -/
theorem peerKeyFormsAgree : Obligations.PeerKeyFormsAgree := by
  intro s b htype hklen
  have hok : b.peerOk = true := b.peerOk_iff.2 ⟨.inr htype, hklen⟩
  obtain ⟨t, hpriv, hpub⟩ := exec_deriveKey_slot1_congr s hok (KeySlot.peerPublic_of_priv htype hklen)
  exact ⟨t, _, hpriv, hpub, rfl, rfl, rfl⟩

end Sys2Proof.Machine
end

section
/-! PROOFS of the dispatcher family (spec 46): DISPATCH by the answer of its encrypted path (R318, R320), the direct
path check by check (R316, R317), the outcomes by variant (R312 to R316), and what DISPATCH leaves unchanged (R319). -/

namespace Sys2Proof.Machine

open Sys2Proof

/-! DISPATCH by the answer of its encrypted path -/

section encrypted

variable {s : State} {w : Word} {c : ResultCode} {p : List Byte} {n : Nat}

/-- The encrypted variant ends as its path does (spec 46 R312). -/
theorem exec_dispatch_encrypted (hlen : s.len.toNat ≤ s.params.dbufBytes) (hv : s.variant = 1) :
    exec .dispatch s = .next (s.finishPath s.encryptedPath) := by
  simp [exec, execDispatch, State.lenTooBig, Nat.not_lt.2 hlen, hv]

/-- A failed path as the CAUSE of DECRYPT_FAILED (spec 46 R318). -/
theorem exec_dispatch_fails (hs : s.seq = .busy w) (hlen : s.len.toNat ≤ s.params.dbufBytes) (hv : s.variant = 1)
    (hp : s.encryptedPath = .error c) :
    exec .dispatch s = .next (({ s with olen := 0 } : State).ended w .decryptFailed c) := by
  have e := exec_dispatch_encrypted hlen hv
  rw [hp] at e
  exact next_ended e hs rfl

/-- A recovered plaintext of n bytes as DBUF[0..n), and its length as OLEN (spec 46 R320). -/
theorem exec_dispatch_recovers (hs : s.seq = .busy w) (hlen : s.len.toNat ≤ s.params.dbufBytes) (hv : s.variant = 1)
    (hp : s.encryptedPath = .ok p) (hn : p.length = n) :
    ∃ t, exec .dispatch s = .next t ∧
      t = ({ s with mem := t.mem, olen := BitVec.ofNat 16 n } : State).ended w .ok .ok ∧
      t.dbuf n = p ∧ SameBytesOutside dbufBase n s t := by
  have e := exec_dispatch_encrypted hlen hv
  rw [hp, State.finishPath, hn] at e
  exact ⟨_, e, State.complete_eq_ended hs (by rfl) .ok .ok, s.writeMem_dbuf hn, s.writeMem_sameBytesOutside dbufBase hn⟩

theorem State.encryptedPath_channel (hroute : s.route = false) :
    s.encryptedPath = channelPath s.slot0 s.pktid s.sender s.dataIn := by
  simp [State.encryptedPath, hroute]

theorem State.encryptedPath_direct (hroute : s.route = true) :
    s.encryptedPath = directPath s.slot0 s.slot1 s.pktid s.sender s.dataIn := by
  simp [State.encryptedPath, hroute]

end encrypted

/-! The direct path, check by check -/

/-- Open fails exactly when the tags differ (spec 41 R183). -/
theorem ccmOpenFn_eq_none {k nonce : List Byte} {m : Nat} {aad c t : List Byte} :
    ccmOpenFn k nonce m aad c t = none ↔ cbcMac k nonce m aad (ctr k nonce c) ≠ t := by
  simp [ccmOpenFn]

section direct

variable {k0 k1 : KeySlot} {pktid sender : Word} {d : List Byte}

theorem directPath_short (h : d.length < 12) : directPath k0 k1 pktid sender d = .error .invalidTrailerLength :=
  if_pos h

theorem directPath_badKeys {c : ResultCode} (h : ¬d.length < 12) (hc : directKeyCheck k0 k1 = some c) :
    directPath k0 k1 pktid sender d = .error c := by
  rw [directPath, if_neg h, hc]

theorem directPath_goodKeys (h : ¬d.length < 12) (hc : directKeyCheck k0 k1 = none) :
    directPath k0 k1 pktid sender d = openDirect k0 k1 pktid sender (splitTrailer d) := by
  rw [directPath, if_neg h, hc]

/-- The nonce of an envelope: the trailer's last 4 bytes as they are between PKTID and SENDER (spec 46 R316, R317). -/
theorem buildNonce_extraNonce (h : ¬d.length < 12) :
    buildNonce pktid sender (splitTrailer d).extraNonce =
      leBytes 4 pktid.toNat ++ d.drop (d.length - 4) ++ leBytes 4 sender.toNat ++ [0x00] := by
  have hlen : (d.drop (d.length - 4)).length = 4 := by rw [List.length_drop]; omega
  have hread := unpack_pack 32 (d.drop (d.length - 4)) (by rw [hlen])
  rw [hlen] at hread
  rw [buildNonce, show leBytes 4 (splitTrailer d).extraNonce.toNat = d.drop (d.length - 4) from hread]

theorem splitTrailer_ciphertext_eq_nil (h : ¬d.length < 12) : (splitTrailer d).ciphertext = [] ↔ d.length = 12 := by
  rw [splitTrailer, List.take_eq_nil_iff, List.eq_nil_iff_length_eq_zero]
  omega

/-- What the direct path answers past its length and key checks, by the shared secret, the length and the tag (spec 46
R316). -/
theorem directPath_goodKeys_cases (h : ¬d.length < 12) (hc : directKeyCheck k0 k1 = none) {secret nonce p : List Byte}
    (hsecret : x25519 k0.bytes k1.peerPublic = secret)
    (hnonce : buildNonce pktid sender (splitTrailer d).extraNonce = nonce)
    (hp : ctr (sha256 secret) nonce (splitTrailer d).ciphertext = p) :
    (secret = zeros 32 ∧ directPath k0 k1 pktid sender d = .error .keyAgreementFailed) ∨
      (secret ≠ zeros 32 ∧
        ((d.length = 12 ∧ directPath k0 k1 pktid sender d = .error .invalidInput) ∨
          (d.length ≠ 12 ∧ cbcMac (sha256 secret) nonce 8 [] p ≠ (splitTrailer d).mac ∧
            directPath k0 k1 pktid sender d = .error .authenticationFailed) ∨
          (d.length ≠ 12 ∧ cbcMac (sha256 secret) nonce 8 [] p = (splitTrailer d).mac ∧
            directPath k0 k1 pktid sender d = .ok p))) := by
  subst hsecret hnonce hp
  have hnil := splitTrailer_ciphertext_eq_nil h
  rw [directPath_goodKeys h hc]
  rcases openDirect_cases k0 k1 pktid sender (splitTrailer d) with ⟨hnone, e⟩ | ⟨k, hsome, hopen⟩
  · exact .inl ⟨deriveSharedKey_eq_none.1 hnone, e⟩
  obtain ⟨hne, rfl⟩ := deriveSharedKey_eq_some.1 hsome
  refine .inr ⟨hne, ?_⟩
  rcases hopen with ⟨hempty, e⟩ | ⟨hempty, hwrong, e⟩ | ⟨q, hempty, hright, e⟩
  · exact .inl ⟨hnil.1 hempty, e⟩
  · exact .inr (.inl ⟨hnil.not.1 hempty, ccmOpenFn_eq_none.1 hwrong, e⟩)
  · obtain ⟨rfl, htag⟩ := ccmOpenFn_eq_some.1 hright
    exact .inr (.inr ⟨hnil.not.1 hempty, htag, e⟩)

end direct

/-! The outcomes -/

/-- Settles O56, by the outcomes of DISPATCH (`execDispatch_cases`); the two of the encrypted paths have variant 1, of
which it says nothing. -/
theorem dispatchByVariant : Obligations.DispatchByVariant := by
  intro s w hs
  rcases execDispatch_cases s with
    ⟨hlong, e⟩ | ⟨hfits, h0, e⟩ | ⟨hfits, h0, _, e⟩ | ⟨_, hfits, h1, _⟩ | ⟨_, hfits, h1, _⟩
  · exact ⟨fun _ => next_ended e hs rfl, fun hfits => absurd hlong (Nat.not_lt.2 hfits),
      fun hfits => absurd hlong (Nat.not_lt.2 hfits)⟩
  · exact ⟨fun hlong => absurd hlong (Nat.not_lt.2 hfits), fun _ _ => next_ended e hs rfl, by simp [h0]⟩
  · exact ⟨fun hlong => absurd hlong (Nat.not_lt.2 hfits), fun _ h => absurd h h0, fun _ _ => next_ended e hs rfl⟩
  · exact ⟨fun hlong => absurd hlong (Nat.not_lt.2 hfits), by simp [h1], by simp [h1]⟩
  · exact ⟨fun hlong => absurd hlong (Nat.not_lt.2 hfits), by simp [h1], by simp [h1]⟩

/-- Settles O57: the answers of the channel path (`channelPath_cases`), and how DISPATCH ends on each
(`exec_dispatch_fails`, `exec_dispatch_recovers`). -/
theorem dispatchChannelPath : Obligations.DispatchChannelPath := by
  intro s w hs hlen hv hroute fails klen legal nonce
  have hpath := s.encryptedPath_channel hroute
  have hlegal : aesKeyLength klen = true ↔ legal := aesKeyLength_iff klen
  rcases channelPath_cases s.slot0 s.pktid s.sender s.dataIn with ⟨ht, hc⟩ | ⟨ht, hl, hc⟩ | ⟨hk, hc⟩
  case inl =>
    exact ⟨fun _ => exec_dispatch_fails hs hlen hv (hpath.trans hc), fun h => absurd h ht, fun h => absurd h ht⟩
  case inr.inl =>
    have hno : ¬legal := fun h => Bool.false_ne_true (hl.symm.trans (hlegal.2 h))
    exact ⟨fun h => absurd ht h, fun _ _ => exec_dispatch_fails hs hlen hv (hpath.trans hc), fun _ h => absurd h hno⟩
  case inr.inr =>
    obtain ⟨ht, hl⟩ := s.slot0.symOk_iff.1 hk
    refine ⟨fun h => absurd ht h, fun _ h => absurd hl h, fun _ _ => ?_⟩
    have hkey : aesKeyLength s.slot0.keyBytes.length = true := by
      rw [KeySlot.keyBytes_length (hlegal.2 hl)]
      exact hlegal.2 hl
    have hn := (ctr_length hkey (buildNonce s.pktid s.sender 0) s.dataIn).trans s.dataIn_length
    have h := exec_dispatch_recovers hs hlen hv (hpath.trans hc) hn
    rwa [BitVec.ofNat_toNat, BitVec.setWidth_eq] at h

/-- Settles O58: the length and key checks of the direct path in turn (`directPath_short`, `directPath_badKeys`), and
past them its four ends (`directPath_goodKeys_cases`). -/
theorem dispatchDirectPath : Obligations.DispatchDirectPath := by
  intro s w hs hlen hv hroute fails n d c tag x peer secret key nonce p
  have hpath := s.encryptedPath_direct hroute
  have hd : d.length = n := s.dataIn_length
  have stop {e : ResultCode} (he : directPath s.slot0 s.slot1 s.pktid s.sender d = .error e) :
      exec .dispatch s = .next (fails e) := exec_dispatch_fails hs hlen hv (hpath.trans he)
  by_cases hshort : n < 12
  · exact (if_pos hshort).mpr (stop (directPath_short (hd.trans_lt hshort)))
  have hd12 : ¬d.length < 12 := by rwa [hd]
  refine (if_neg hshort).mpr ?_
  by_cases h0 : s.slot0.type ≠ .priv
  · exact (if_pos h0).mpr (stop (directPath_badKeys hd12 (if_pos h0)))
  refine (if_neg h0).mpr ?_
  by_cases hk0 : s.slot0.klen ≠ 32
  · exact (if_pos hk0).mpr (stop (directPath_badKeys hd12 (by rw [directKeyCheck, if_neg h0, if_pos hk0])))
  refine (if_neg hk0).mpr ?_
  by_cases h1 : s.slot1.type ≠ .pub ∧ s.slot1.type ≠ .priv
  · exact (if_pos h1).mpr (stop (directPath_badKeys hd12 (by rw [directKeyCheck, if_neg h0, if_neg hk0, if_pos h1])))
  refine (if_neg h1).mpr ?_
  by_cases hk1 : s.slot1.klen ≠ 32
  · exact (if_pos hk1).mpr (stop (directPath_badKeys hd12 (by
      rw [directKeyCheck, if_neg h0, if_neg hk0, if_neg h1, if_pos hk1])))
  refine (if_neg hk1).mpr ?_
  have hkeys : directKeyCheck s.slot0 s.slot1 = none := by
    rw [directKeyCheck, if_neg h0, if_neg hk0, if_neg h1, if_neg hk1]
  have hpeer : s.slot1.peerPublic = peer :=
    KeySlot.peerPublic_eq (s.slot1.peerOk_iff.2 ⟨or_iff_not_and_not.2 h1, not_not.1 hk1⟩)
  have hnonce : buildNonce s.pktid s.sender (splitTrailer d).extraNonce = nonce := by
    rw [buildNonce_extraNonce hd12, hd]
  have hmac : (splitTrailer d).mac = tag := by rw [splitTrailer, hd]
  have hsecret : x25519 s.slot0.bytes s.slot1.peerPublic = secret := congrArg _ hpeer
  have hplain : ctr (sha256 secret) nonce (splitTrailer d).ciphertext = p := by rw [splitTrailer, hd]
  have hcases := directPath_goodKeys_cases hd12 hkeys hsecret hnonce hplain
  rw [hmac, hd] at hcases
  -- only the names of the secret and of the plaintext matter from here on; their values are large terms
  clear_value secret p
  rcases hcases with ⟨hz, e⟩ | ⟨hz, ⟨hempty, e⟩ | ⟨hempty, htag, e⟩ | ⟨hempty, htag, e⟩⟩
  · exact (if_pos hz).mpr (stop e)
  · exact (if_neg hz).mpr ((if_pos hempty).mpr (stop e))
  · exact (if_neg hz).mpr ((if_neg hempty).mpr ((if_pos htag).mpr (stop e)))
  · have hp : p.length = n - 12 := hd ▸ (directPath_ok e).2
    exact (if_neg hz).mpr ((if_neg hempty).mpr ((if_neg (not_not.2 htag)).mpr
      (exec_dispatch_recovers hs hlen hv (hpath.trans e) hp)))

/-! What DISPATCH leaves unchanged -/

/-- What DISPATCH may write: DBUF[0..OLEN), OLEN and the completion, and on a failure no buffer byte and OLEN = 0
(spec 46 R318 to R320). -/
def WritesOnlyOutput (w : Word) (s t : State) : Prop :=
  t = ({ s with mem := t.mem, olen := t.olen } : State).ended w t.code t.cause ∧
    SameBytesOutside dbufBase t.olen.toNat s t ∧ (t.code ≠ .ok → SameBytes s t ∧ t.olen = 0)

namespace WritesOnlyOutput

variable {s : State} {w : Word}

theorem failure (hs : s.seq = .busy w) (c d : ResultCode) : WritesOnlyOutput w s ((s.withOlen 0).complete c d) :=
  ⟨State.complete_eq_ended (u := s.withOlen 0) hs rfl c d, fun _ _ => rfl, fun _ => ⟨fun _ => rfl, rfl⟩⟩

theorem decoded (hs : s.seq = .busy w) : WritesOnlyOutput w s ((s.withOlen s.len).complete .ok .ok) :=
  ⟨State.complete_eq_ended (u := s.withOlen s.len) hs rfl .ok .ok, fun _ _ => rfl, fun h => absurd rfl h⟩

theorem plaintext (hs : s.seq = .busy w) {p : List Byte} (hp : p.length < 2 ^ 16) :
    WritesOnlyOutput w s (((s.writeMem dbufBase p).withOlen (BitVec.ofNat 16 p.length)).complete .ok .ok) := by
  refine ⟨State.complete_eq_ended (u := (s.writeMem dbufBase p).withOlen _) hs rfl .ok .ok, ?_, fun h => absurd rfl h⟩
  exact s.writeMem_sameBytesOutside dbufBase (Nat.mod_eq_of_lt hp).symm

end WritesOnlyOutput

/-- Settles O59: the outcomes of DISPATCH (`execDispatch_cases`), the plaintext of an encrypted path being no longer
than the input (`State.encryptedPath_ok`). -/
theorem dispatchKeepsTheRest : Obligations.DispatchKeepsTheRest := by
  intro s t w hs h
  have ends {u : State} (e : execDispatch s = .next u) (hu : WritesOnlyOutput w s u) : WritesOnlyOutput w s t :=
    Host.Outcome.next.inj (e.symm.trans h) ▸ hu
  rcases execDispatch_cases s with ⟨_, e⟩ | ⟨_, _, e⟩ | ⟨_, _, _, e⟩ | ⟨_, _, _, _, e⟩ | ⟨p, _, _, hp, e⟩
  · exact ends e (.failure hs _ _)
  · exact ends e (.decoded hs)
  · exact ends e (.failure hs _ _)
  · exact ends e (.failure hs _ _)
  · exact ends e (.plaintext hs (Nat.lt_of_le_of_lt (State.encryptedPath_ok hp) s.len.isLt))

end Sys2Proof.Machine
end

section
/-! PROOFS of the housekeeping family (spec 47): what NOP and ZEROIZE leave (R340, R341). -/

namespace Sys2Proof.Machine

open Sys2Proof

/-- Settles O34: NOP is a completion of the state as it is (spec 60 R353). -/
theorem nopCompletes : Obligations.NopCompletes :=
  fun _ _ hs => next_ended rfl hs rfl

/-- Zeros written over a range read as zeros there, and every other byte as before. -/
theorem State.writeMem_zeros_byteAt (s : State) (base n x : Nat) :
    (s.writeMem base (zeros n)).byteAt x = if base ≤ x ∧ x < base + n then 0 else s.byteAt x := by
  have hzero (i : Nat) : (zeros n).getD i 0 = 0 := by
    simp only [zeros, List.getD_eq_getElem?_getD, List.getElem?_replicate]
    split <;> rfl
  rw [State.writeMem_byteAt, zeros_length, hzero]

/-- Clearing the buffers clears every implemented byte, DBUF's and ABUF's, and no other (spec 47 R341). -/
theorem State.zeroBuffers_byteAt (s : State) (x : Nat) :
    s.zeroBuffers.byteAt x = if inBuffer s.params x then 0 else s.byteAt x := by
  rw [State.zeroBuffers, State.writeMem_zeros_byteAt, State.writeMem_zeros_byteAt]
  by_cases habuf : abufBase ≤ x ∧ x < abufBase + s.params.abufBytes
  · rw [if_pos habuf, if_pos (.inr habuf)]
  · rw [if_neg habuf]
    exact if_congr (or_iff_left habuf).symm rfl rfl

/-- Settles O35: the completion in the words of spec 60 R353, over the cleared registers and buffers
(`State.zeroBuffers_byteAt`). -/
theorem zeroizeClears : Obligations.ZeroizeClears :=
  fun s _ hs => ⟨_, next_ended rfl hs rfl, rfl, s.zeroKeys.zeroBuffers_byteAt⟩

end Sys2Proof.Machine
end

section
/-! PROOFS of the exceptions family (spec 60): every command completes (R350, R353, R354), the codes and causes each
command can write and what its failure leaves (R351, R352, R356), and the interrupt level (R357). -/

namespace Sys2Proof.Machine

open Sys2Proof

/-! Acceptance and completion -/

/-- The engine's turn of a running command sets DONE and leaves the sequencer idle (spec 60 R353). -/
theorem engineTurn_done {s : State} {w : Word} (h : s.seq = .busy w) :
    ∃ t, engineTurn s = .next t ∧ t.seq = .idle ∧ t.done = true := by
  obtain ⟨u, c, d, e, _⟩ := runWord_form w s
  exact ⟨u.complete c d, (engineTurn_busy h).trans e, rfl, rfl⟩

/-- Settles O7: CMD stands at 0x010, where an idle write is the acceptance, whose command the engine's turn ends
(`engineTurn_done`), and a busy write sets WIGN alone. -/
theorem cmdWriteAcceptsOrIsIgnored : Obligations.CmdWriteAcceptsOrIsIgnored := by
  intro s w
  constructor
  · intro hidle
    have haccept : s.hostWrite 0x010 w = (s.accept w).answer .written :=
      State.hostWrite_idle_offset (r := .cmd) (s.busy_false_iff.2 hidle) (by decide) w
    rw [haccept]
    exact ⟨rfl, engineTurn_done rfl⟩
  · intro v hbusy
    exact State.hostWrite_busy_offset (r := .cmd) (s.busy_iff.2 ⟨v, hbusy⟩) (by decide) w

/-- While idle the host reads RESULT at 0x018 as the sum of its fields (spec 10 R43). -/
theorem State.shows_result {s : State} (h : s.busy = false) : s.Shows 0x018 s.resultNumber := by
  have hr : regAt s.params 0x018 = .result := regAt_of_offset_lt s.params (r := .result) (by decide)
  rw [State.Shows, State.hostRead_idle h, hr, State.readReg, State.resultWord_eq]

/-- Settles O8: every command's answer is a completion of a state that keeps SEQ and ERR (`exec_form`), and RESULT is
then the sum of the completion's fields (`State.shows_result`). -/
theorem everyCommandCompletes : Obligations.EveryCommandCompletes := by
  intro i s w hs
  obtain ⟨u, c, d, e, hk⟩ := exec_form i s
  have hw : u.commandWord = w := hk.commandWord.trans (s.commandWord_of_busy w hs)
  have herr : (u.complete c d).err = if c = .ok then s.err else true := by
    rw [State.complete_err, errAfter_eq, hk.err]
  refine ⟨u.complete c d, e, rfl, rfl, ?_, fun hc => herr.trans (if_pos hc), fun hc => herr.trans (if_neg hc), ?_⟩
  · rw [State.complete_resultOp, hw]
  · have hshows := (u.complete c d).shows_result rfl
    rwa [State.resultNumber, State.complete_resultOp, hw, BitVec.extractLsb'_toNat, Nat.shiftRight_zero] at hshows

/-! How a command ends -/

/-- The codes a command reports with CAUSE = CODE (spec 60 R351, R352); the ill-formed CCM_NEW stands for an illegal
word (log entry 10). -/
def plainCodes : Instr → List ResultCode
  | .nop | .nonceBuild | .zeroize => [.ok]
  | .ccmNew ks dk => if (Instr.ccmNew ks dk).wf then [.ok, .invalidParameters] else [.illegalCommand]
  | .x25519Base _ => [.ok, .invalidParameters]
  | .ccmSeal | .ccmTag | .ctrXor => [.ok, .invalidParameters, .invalidInput]
  | .ccmOpen => [.ok, .invalidParameters, .invalidInput, .authenticationFailed]
  | .x25519 | .deriveKey => [.ok, .invalidParameters, .keyAgreementFailed]
  | .sha256 => [.ok, .invalidInput]
  | .dispatch => [.ok, .invalidInput, .unknownPayloadVariant]

/-- The state a command's failure with a code completes (spec 60 R356). -/
def State.afterFailure (s : State) (c : ResultCode) : Instr → State
  | .ccmNew ks dk => if (Instr.ccmNew ks dk).wf then s.withLatch CcmLatch.reset else s
  | .deriveKey => s.withDkey (zeros 32) false
  | .ccmSeal | .ccmOpen | .ctrXor | .dispatch => s.withOlen 0
  | .x25519 => if c = .keyAgreementFailed then s.withOut (zeros 32) else s
  | _ => s

/-- How a command ends on a state: with OK, with a failure that is its own cause, or as DISPATCH with a failed
encrypted path (spec 46 R318, spec 60 R351, R352, R356). -/
inductive EndsAs (i : Instr) (s : State) : State → Prop
  | ok (u : State) (listed : .ok ∈ plainCodes i) : EndsAs i s (u.complete .ok .ok)
  | failure (c : ResultCode) (listed : c ∈ plainCodes i) : EndsAs i s ((s.afterFailure c i).complete c c)
  | encryptedPath (c : ResultCode) (isDispatch : i = .dispatch) (fits : s.len.toNat ≤ s.params.dbufBytes)
      (isEncrypted : s.variant = 1) (specific : c ∈ pathFailures) :
      EndsAs i s ((s.afterFailure .decryptFailed i).complete .decryptFailed c)

theorem ccmNew_endsAs (ks : SlotSel) (dk : Bool) (s : State) :
    ∃ t, execCcmNew ks dk s = .next t ∧ EndsAs (.ccmNew ks dk) s t := by
  have new (ok : Bool) (k : List Byte) {i : Instr} (hcodes : plainCodes i = [.ok, .invalidParameters])
      (hafter : s.afterFailure .invalidParameters i = s.withLatch CcmLatch.reset) : EndsAs i s (s.ccmNewFrom ok k) := by
    rcases s.ccmNewFrom_cases ok k with ⟨_, _, e⟩ | ⟨_, e⟩
    · exact e ▸ .ok _ (by simp [hcodes])
    · exact e ▸ hafter ▸ .failure .invalidParameters (by simp [hcodes])
  match dk, ks with
  | false, .slot0 => exact ⟨_, rfl, new _ _ rfl rfl⟩
  | false, .slot1 => exact ⟨_, rfl, new _ _ rfl rfl⟩
  | true, .slot0 => exact ⟨_, rfl, new _ _ rfl rfl⟩
  | true, .slot1 => exact ⟨_, rfl, .failure .illegalCommand (by decide)⟩

/-- Every command ends so: in each case of its meaning, by the code of that case. -/
theorem exec_endsAs (i : Instr) (s : State) : ∃ t, exec i s = .next t ∧ EndsAs i s t := by
  cases i with
  | nop => exact ⟨_, rfl, .ok _ (by decide)⟩
  | ccmNew ks dk => exact ccmNew_endsAs ks dk s
  | ccmSeal =>
    rcases execCcmSeal_cases s with ⟨c, hc, e⟩ | ⟨_, e⟩
    · exact ⟨_, e, .failure c (by rcases State.ccmInputCheck_some hc with rfl | rfl <;> decide)⟩
    · exact ⟨_, e, .ok _ (by decide)⟩
  | ccmOpen =>
    rcases execCcmOpen_cases s with ⟨c, hc, e⟩ | ⟨_, _, e⟩ | ⟨_, _, _, e⟩
    · exact ⟨_, e, .failure c (by rcases State.ccmInputCheck_some hc with rfl | rfl <;> decide)⟩
    · exact ⟨_, e, .failure .authenticationFailed (by decide)⟩
    · exact ⟨_, e, .ok _ (by decide)⟩
  | ccmTag =>
    rcases execCcmTag_cases s with ⟨c, hc, e⟩ | ⟨_, e⟩
    · exact ⟨_, e, .failure c (by rcases State.ccmInputCheck_some hc with rfl | rfl <;> decide)⟩
    · exact ⟨_, e, .ok _ (by decide)⟩
  | ctrXor =>
    rcases execCtrXor_cases s with ⟨c, hc, e⟩ | ⟨_, e⟩
    · exact ⟨_, e, .failure c (by rcases State.ctrInputCheck_some hc with rfl | rfl <;> decide)⟩
    · exact ⟨_, e, .ok _ (by decide)⟩
  | nonceBuild => exact ⟨_, rfl, .ok _ (by decide)⟩
  | x25519Base ks =>
    rcases execX25519Base_cases ks s with ⟨_, e⟩ | ⟨_, e⟩
    · exact ⟨_, e, .ok _ (by simp [plainCodes])⟩
    · exact ⟨_, e, .failure .invalidParameters (by simp [plainCodes])⟩
  | x25519 =>
    rcases execX25519_cases s with ⟨_, _, hzero, e⟩ | ⟨_, _, _, e⟩ | ⟨_, e⟩
    · rw [hzero] at e
      exact ⟨_, e, .failure .keyAgreementFailed (by decide)⟩
    · exact ⟨_, e, .ok _ (by decide)⟩
    · exact ⟨_, e, .failure .invalidParameters (by decide)⟩
  | deriveKey =>
    rcases execDeriveKey_cases s with ⟨_, _, _, _, e⟩ | ⟨_, _, _, e⟩ | ⟨_, e⟩
    · exact ⟨_, e, .ok _ (by decide)⟩
    · exact ⟨_, e, .failure .keyAgreementFailed (by decide)⟩
    · exact ⟨_, e, .failure .invalidParameters (by decide)⟩
  | sha256 =>
    rcases execSha256_cases s with ⟨_, e⟩ | ⟨_, e⟩
    · exact ⟨_, e, .failure .invalidInput (by decide)⟩
    · exact ⟨_, e, .ok _ (by decide)⟩
  | dispatch =>
    rcases execDispatch_cases s with ⟨_, e⟩ | ⟨_, _, e⟩ | ⟨_, _, _, e⟩ | ⟨c, hl, hv, hp, e⟩ | ⟨_, _, _, _, e⟩
    · exact ⟨_, e, .failure .invalidInput (by decide)⟩
    · exact ⟨_, e, .ok _ (by decide)⟩
    · exact ⟨_, e, .failure .unknownPayloadVariant (by decide)⟩
    · exact ⟨_, e, .encryptedPath c rfl hl hv (State.encryptedPath_error hp)⟩
    · exact ⟨_, e, .ok _ (by decide)⟩
  | zeroize => exact ⟨_, rfl, .ok _ (by decide)⟩

/-- The same of a given next state. -/
theorem EndsAs.of_exec {i : Instr} {s t : State} (ht : exec i s = .next t) : EndsAs i s t := by
  obtain ⟨u, hu, h⟩ := exec_endsAs i s
  exact Host.Outcome.next.inj (hu.symm.trans ht) ▸ h

/-! Codes and causes -/

/-- Settles O14: a command ends with one of its plain codes, or as DISPATCH with DECRYPT_FAILED (`EndsAs`). -/
theorem codesByCommand : Obligations.CodesByCommand := by
  intro i s t hwf ht
  suffices t.code ∈ plainCodes i ∨ (i = .dispatch ∧ t.code = .decryptFailed) by
    rcases this with hc | ⟨rfl, hc⟩
    · cases i with
      | ccmNew ks dk => rwa [plainCodes, if_pos hwf] at hc
      | dispatch => exact List.mem_append_left [.decryptFailed] hc
      | _ => exact hc
    · rw [hc]
      decide
  cases EndsAs.of_exec ht with
  | ok u listed => exact .inl listed
  | failure c listed => exact .inl listed
  | encryptedPath c isDispatch => exact .inr ⟨isDispatch, rfl⟩

/-- DECRYPT_FAILED is never its own cause (spec 46 R318, spec 60 R352). -/
theorem decryptFailed_not_plain (i : Instr) : .decryptFailed ∉ plainCodes i := by
  cases i with
  | ccmNew ks dk =>
    rw [plainCodes]
    split
    · decide
    · decide
  | x25519Base ks =>
    rw [plainCodes]
    decide
  | _ => decide

/-- CAUSE is CODE, or the command is a DISPATCH whose encrypted path failed (spec 60 R352). -/
theorem EndsAs.cause_cases {i : Instr} {s t : State} (h : EndsAs i s t) :
    (t.cause = t.code ∧ t.code ≠ .decryptFailed) ∨
      (i = .dispatch ∧ s.len.toNat ≤ s.params.dbufBytes ∧ s.variant = 1 ∧ t.code = .decryptFailed ∧
        t.cause ∈ pathFailures) := by
  cases h with
  | ok u listed => exact .inl ⟨rfl, ResultCode.noConfusion⟩
  | failure c listed => exact .inl ⟨rfl, fun hc => decryptFailed_not_plain i (hc ▸ listed)⟩
  | encryptedPath c isDispatch fits isEncrypted specific => exact .inr ⟨isDispatch, fits, isEncrypted, rfl, specific⟩

/-- On an encrypted path DISPATCH ends OK or with DECRYPT_FAILED and a specific cause (spec 46 R312, R318). -/
theorem exec_dispatch_encrypted_result {s t : State} (ht : exec .dispatch s = .next t)
    (hlen : s.len.toNat ≤ s.params.dbufBytes) (hv : s.variant = 1) :
    t.code = .ok ∨ (t.code = .decryptFailed ∧ t.cause ∈ pathFailures) := by
  obtain rfl := Host.Outcome.next.inj ((exec_dispatch_encrypted hlen hv).symm.trans ht)
  cases hp : s.encryptedPath with
  | ok p => exact .inl rfl
  | error c => exact .inr ⟨rfl, State.encryptedPath_error hp⟩

/-- Settles O13: CAUSE by how the command ends (`EndsAs.cause_cases`), and the encrypted paths of DISPATCH by
`exec_dispatch_encrypted_result`. -/
theorem causeIsCodeButForDispatch : Obligations.CauseIsCodeButForDispatch := by
  intro i s t ht
  refine ⟨fun hi => ?_, fun _ hc => ?_, fun hi => ?_, fun hc => ?_⟩
  · exact (EndsAs.of_exec ht).cause_cases.elim And.left fun ⟨hd, _⟩ => absurd hd hi
  · exact (EndsAs.of_exec ht).cause_cases.elim And.left fun ⟨_, _, _, hcode, _⟩ => absurd hcode hc
  · subst hi
    exact exec_dispatch_encrypted_result ht
  · obtain ⟨_, hne⟩ | ⟨hi, hlen, hv, _, hcause⟩ := (EndsAs.of_exec ht).cause_cases
    · exact absurd hc hne
    · exact ⟨hi, hlen, hv, fun h => absurd (h ▸ hcause) (by decide), fun h => absurd (h ▸ hcause) (by decide)⟩

/-! What a failure leaves -/

/-- A failed command completes what its failure leaves (spec 60 R356). -/
theorem EndsAs.withoutResult {i : Instr} {s t : State} (h : EndsAs i s t) (hc : t.code ≠ .ok) :
    t.withoutResult = (s.afterFailure t.code i).withoutResult := by
  cases h with
  | ok u listed => exact absurd rfl hc
  | failure c listed => rfl
  | encryptedPath c isDispatch fits isEncrypted specific => rfl

/-- Settles O12: an illegal word completes the state as it is, and a failed command what its failure leaves
(`EndsAs.withoutResult`); a decoded CCM_NEW is well-formed. -/
theorem failedCommandLeaves : Obligations.FailedCommandLeaves := by
  intro w s t ht hc
  rcases runWord_cases w s with ⟨i, hd, e⟩ | ⟨_, hd, e⟩
  · rw [(EndsAs.of_exec (e.symm.trans ht)).withoutResult hc, hd]
    cases i with
    | ccmNew ks dk =>
      obtain ⟨hwf, _⟩ := (decodeEncodeAgree w _).1 hd
      rw [State.afterFailure, if_pos hwf]
      rfl
    | deriveKey => rw [State.afterFailure, State.withDkey_cleared]
    | x25519 => rw [State.afterFailure, State.withOut_zeros]
    | _ => rfl
  · obtain rfl := Host.Outcome.next.inj (e.symm.trans ht)
    rw [hd]
    rfl

/-! The interrupt -/

/-- CTRL stands at 0x00C, and busy or idle its write is the write of CTRL (spec 10 R36). -/
theorem State.hostWrite_ctrl (s : State) (w : Word) : s.hostWrite 0x00C w = (s.writeCtrl w).answer .written := by
  have hr : regAt s.params 0x00C = .ctrl := regAt_of_offset_lt s.params (r := .ctrl) (by decide)
  exact s.hostWrite_of_same _ _ _ (by rw [hr]; rfl) (by rw [hr]; rfl)

/-- A soft reset, idle or busy, is the power-on reset but for the buffers and the draws (spec 70 R383, R384). -/
theorem softReset_registers (s : State) :
    ∃ mem bufDraw draws, s.softReset = { s.powerOnReset with mem := mem, bufDraw := bufDraw, draws := draws } := by
  rcases s.softReset_cases with ⟨_, e⟩ | ⟨_, e⟩
  · exact ⟨_, _, _, e⟩
  · exact ⟨_, _, _, e⟩

/-- A soft reset deasserts the interrupt (spec 60 R357). -/
theorem softReset_irq (s : State) : s.softReset.irq = false := by
  obtain ⟨_, _, _, e⟩ := softReset_registers s
  rw [e]
  rfl

/-- A write of CTRL that asks for a soft reset or clears IRQ_EN deasserts the interrupt (spec 60 R357). -/
theorem writeCtrl_irq (s : State) {w : Word} (h : w.getLsbD 1 = true ∨ w.getLsbD 0 = false) :
    (s.writeCtrl w).irq = false := by
  cases hrst : w.getLsbD 1
  · rw [s.writeCtrl_irqEn hrst, State.irq, h.resolve_left (Bool.eq_false_iff.1 hrst), Bool.false_and]
  · rw [s.writeCtrl_softReset hrst, softReset_irq]

/-- Settles O30: a completion sets DONE and keeps IRQ_EN (`exec_form`), and each other event clears DONE or IRQ_EN. -/
theorem interruptFollowsDone : Obligations.InterruptFollowsDone := by
  refine fun s => ⟨fun i t ht => ?_, fun w => Bool.and_false _, fun w hw => ?_, fun w hw => ?_, fun w hw => ?_, rfl⟩
  · obtain ⟨u, c, d, e, hk⟩ := exec_form i s
    obtain rfl := Host.Outcome.next.inj (e.symm.trans ht)
    rw [State.irq, State.complete_irqEn, State.complete_done, hk.irqEn, Bool.and_true]
  · rw [statusWriteOneToClear s w, hw]
    exact Bool.and_false _
  · rw [s.hostWrite_ctrl]
    exact writeCtrl_irq s (.inr hw)
  · rw [s.hostWrite_ctrl]
    exact writeCtrl_irq s (.inl hw)

end Sys2Proof.Machine
end

section
/-! PROOFS of the reset family (spec 70): the state after a power-on reset (R381, R382) and after a soft reset, idle
and busy (R383, R384). -/

namespace Sys2Proof.Machine

open Sys2Proof

/-- After a power-on reset no buffer byte is written (spec 70 R382). -/
theorem powerOnReset_byteAt (s : State) (a : Nat) : s.powerOnReset.byteAt a = Config.unwrittenByte s.draws a := rfl

/-- Settles O18: the step is the power-on reset, whose fields are those of `State.reset` but for the parameters, the
host's side and the draws. -/
theorem powerOnResetsAll : Obligations.PowerOnResetsAll := by
  intro s rest hp
  exact ⟨(s.withPending rest).powerOnReset, step_cons hp, rfl, rfl, rfl, powerOnReset_byteAt _⟩

/-- An idle soft reset keeps every buffer byte: the written ones and the draw of the others (spec 70 R383). -/
theorem softReset_byteAt_idle {s : State} (h : s.busy = false) (a : Nat) : s.softReset.byteAt a = s.byteAt a := by
  rcases s.softReset_cases with ⟨hb, _⟩ | ⟨_, e⟩
  · cases h.symm.trans hb
  · rw [e]; rfl

/-- After a busy soft reset no buffer byte is written (spec 70 R384). -/
theorem softReset_byteAt_busy {s : State} (h : s.busy = true) (a : Nat) :
    s.softReset.byteAt a = Config.unwrittenByte s.draws a := by
  rw [State.softReset, if_pos h, powerOnReset_byteAt]

/-- Settles O19: the write of CTRL is the soft reset, which idle or busy resets every register
(`softReset_registers`), and whose buffer bytes depend on which. -/
theorem softResetResetsAllButBuffers : Obligations.SoftResetResetsAllButBuffers := by
  intro s w hw t
  have ht : t = s.softReset.answer .written := by
    rw [← s.writeCtrl_softReset hw]
    exact s.hostWrite_ctrl w
  rw [ht]
  obtain ⟨_, _, _, e⟩ := softReset_registers s
  exact ⟨by rw [e]; rfl, by rw [e]; rfl, by rw [e]; rfl, softReset_byteAt_idle, softReset_byteAt_busy⟩

end Sys2Proof.Machine
end
